-- ==== Sys2Proof/Word.lean ====
section
/-! DEFINITION. The word types of the QFCB: every register, operand, result, payload word and command word is
32 bits wide, and the instance and register index fields are 8 bits wide (00_scope.md R7). -/
namespace Sys2Proof

/-- A register, operand, result, payload or command word (00_scope.md R7). -/
abbrev Word := BitVec 32

/-- The `INST` and `IDX` fields of a command word, and one byte of a DB payload (00_scope.md R7, 20_memory.md R48). -/
abbrev Byte := BitVec 8

end Sys2Proof
end

