-- ==== Sys2Proof/Config.lean ====
section
/-! DEFINITION. What an implementation of the QFCB fixes (00_scope.md R6), and the values the spec leaves free:
the CF2 coefficient law, NaN patterns, and the response of a command that a reset discards. -/
namespace Sys2Proof

/-- The two branches of a complementary filter (42_complementary.md R103 to R105). -/
inductive Branch where
  | acc
  | gyr
  deriving DecidableEq, Repr

/-- The five coefficients of a CF2 sample (42_complementary.md R105). -/
structure Cf2Coeffs where
  c0 : Word
  c1 : Word
  c2 : Word
  d1 : Word
  d2 : Word
  deriving DecidableEq, Repr, Inhabited

/-- The parameters of a block, fixed for its life (00_scope.md R6). `cf2_coeffs` is `Config.cf2Coeffs`. -/
structure Params where
  nDb : Nat
  nBiq : Nat
  nCf1 : Nat
  nCf2 : Nat
  nPidd : Nat
  nPidt : Nat
  biqMaxSec : Nat
  dbSlotWords : Nat
  deriving DecidableEq, Repr

/-- The legal ranges of 00_scope.md R6. -/
def Params.legal (p : Params) : Bool :=
  decide (p.nDb ≤ 256) && decide (p.nBiq ≤ 256) && decide (p.nCf1 ≤ 256) &&
  decide (p.nCf2 ≤ 256) && decide (p.nPidd ≤ 256) && decide (p.nPidt ≤ 256) &&
  decide (1 ≤ p.biqMaxSec) && decide (p.biqMaxSec ≤ 31) &&
  decide (1 ≤ p.dbSlotWords) && decide (p.dbSlotWords ≤ 2)

/-- The values 00_scope.md R6 lists for 95_test_vectors.md, which `State.reset` uses.
DESIGN CHOICE, unsafe (log 1): the spec leaves every parameter open. -/
def Config.params : Params :=
  { nDb := 2, nBiq := 1, nCf1 := 2, nCf2 := 1, nPidd := 1, nPidt := 1, biqMaxSec := 4, dbSlotWords := 2 }

/-- `SPEC_REV`, the spec revision SYS.PARAM_R reports at index 8 (00_scope.md R2, 44_system.md R133). -/
def Config.specRev : Nat := 7

/-- The open parameter `cf2_coeffs`: a total function of the branch and `tau` alone, the same for every CF2
instance (42_complementary.md R106). Uninterpreted, safe (log 7). -/
opaque Config.cf2Coeffs : Branch → Word → Cf2Coeffs

/-- The free bits of the NaN that the `n`-th arithmetic primitive gives, should its result be a NaN: the sign
(bit 22) and the low fraction bits (00_scope.md R12). Uninterpreted, safe (log 6). -/
opaque Config.nanDraw : Nat → BitVec 23

/-- The free response words of a command that a reset discards (70_reset_and_hazards.md R155;
93_implementation_defined.md I14). Uninterpreted, safe (log 8). -/
opaque Config.discardedWord : Nat → Word

end Sys2Proof
end

