-- ==== Sys2Proof/Machine/Binary32.lean ====
section
/-! DEFINITION. The binary32 primitives of 00_scope.md R10 to R12, on 32-bit patterns. A finite magnitude is counted
in units of 2^-149, so that every exact result is a fraction of whole numbers of units, rounded once, to nearest with
ties to even. Nothing is fused, subnormals are kept and no exception flag exists (R10; D2). -/
namespace Sys2Proof.Machine

/-- The sign, bit 31 (10_state.md R31). -/
def signOf (a : Word) : Bool := a.getLsbD 31

/-- The biased exponent, bits 30:23 (10_state.md R31). -/
def expoOf (a : Word) : Nat := (a.extractLsb' 23 8).toNat

/-- The fraction, bits 22:0 (10_state.md R31). -/
def fracOf (a : Word) : Nat := (a.extractLsb' 0 23).toNat

/-- The pattern is a NaN. -/
def isNaN (a : Word) : Bool := expoOf a == 255 && fracOf a != 0

/-- The pattern is an infinity. -/
def isInf (a : Word) : Bool := expoOf a == 255 && fracOf a == 0

/-- The pattern is a finite number. -/
def isFinite (a : Word) : Bool := expoOf a != 255

/-- The pattern is +0 or -0. -/
def isZero (a : Word) : Bool := expoOf a == 0 && fracOf a == 0

/-- The magnitude in units of 2^-149: exact for a finite pattern; an infinity counts as more than every finite one. -/
def unitsOf (a : Word) : Nat :=
  if expoOf a = 0 then fracOf a else (2 ^ 23 + fracOf a) * 2 ^ (expoOf a - 1)

/-- The value in units of 2^-149. -/
def valueOf (a : Word) : Int := if signOf a then -(unitsOf a : Int) else (unitsOf a : Int)

/-- A pattern from its sign and its low 31 bits. -/
def packSign (neg : Bool) (mag : Nat) : Word := BitVec.ofBool neg ++ BitVec.ofNat 31 mag

/-- The infinity of a sign. -/
def infOf (neg : Bool) : Word := packSign neg 0x7F800000

/-- The zero of a sign. -/
def zeroOf (neg : Bool) : Word := packSign neg 0

/-- `num / den` rounded to the nearest whole number, ties to the even one. -/
def roundDiv (num den : Nat) : Nat :=
  let q := num / den
  let r := num % den
  if den < 2 * r ∨ (2 * r = den ∧ q % 2 = 1) then q + 1 else q

/-- The low 31 bits of the binary32 pattern nearest to `num / den` units of 2^-149, ties to even; the infinity's where
the rounded magnitude is beyond the largest finite one (00_scope.md R10, R11). With `k` the number of bits that the
whole part has above 24, the significand is `num / (den * 2^k)` rounded, and `k * 2^23` is its exponent's part of the
pattern: a significand that rounds up to 2^24 carries into the exponent field. -/
def roundMag (num den : Nat) : Nat :=
  let k := Nat.log2 (num / den) - 23
  min (roundDiv num (den * 2 ^ k) + k * 2 ^ 23) 0x7F800000

/-- The quiet NaN that primitive number `k` gives: exponent all ones, bit 22 set, and the sign and the low fraction
bits free (00_scope.md R12; log 6). -/
def drawNaN (k : Nat) : Word :=
  (Config.nanDraw k).extractLsb' 22 1 ++ 0x1FF#9 ++ (Config.nanDraw k).extractLsb' 0 22

/-- `fneg(a)`: bit 31 flipped, exact on every pattern (00_scope.md R10). -/
def fneg (a : Word) : Word := a ^^^ 0x80000000#32

/-- `fadd(a,b)` (00_scope.md R10, R11), as primitive number `k`. -/
def fadd (k : Nat) (a b : Word) : Word :=
  if isNaN a || isNaN b then drawNaN k
  else if isInf a then (if isInf b && signOf a != signOf b then drawNaN k else a)
  else if isInf b then b
  else
    let z := valueOf a + valueOf b
    if z = 0 then zeroOf (signOf a && signOf b) else packSign (decide (z < 0)) (roundMag z.natAbs 1)

/-- `fsub(a,b)` (00_scope.md R10, R11): the sum of `a` and the exact negation of `b` (log 9). -/
def fsub (k : Nat) (a b : Word) : Word := fadd k a (fneg b)

/-- `fmul(a,b)` (00_scope.md R10, R11). -/
def fmul (k : Nat) (a b : Word) : Word :=
  let neg := signOf a != signOf b
  if isNaN a || isNaN b then drawNaN k
  else if isInf a || isInf b then (if isZero a || isZero b then drawNaN k else infOf neg)
  else packSign neg (roundMag (unitsOf a * unitsOf b) (2 ^ 149))

/-- `fdiv(a,b)` (00_scope.md R10, R11). -/
def fdiv (k : Nat) (a b : Word) : Word :=
  let neg := signOf a != signOf b
  if isNaN a || isNaN b then drawNaN k
  else if isInf a then (if isInf b then drawNaN k else infOf neg)
  else if isInf b then zeroOf neg
  else if isZero b then (if isZero a then drawNaN k else infOf neg)
  else packSign neg (roundMag (unitsOf a * 2 ^ 149) (unitsOf b))

/-- `fgt(a,b)`, false when either operand is a NaN (00_scope.md R10). -/
def fgt (a b : Word) : Bool := !isNaN a && !isNaN b && decide (valueOf b < valueOf a)

/-- `flt(a,b)`, false when either operand is a NaN (00_scope.md R10). -/
def flt (a b : Word) : Bool := !isNaN a && !isNaN b && decide (valueOf a < valueOf b)

/-- `f(c)`: the binary32 value nearest to the decimal `num / den` (00_scope.md R10, 30_encoding.md R75). R10 and R75 do
not say which value that is for a decimal half-way between two, beyond the largest finite one, or at zero: the even one,
an infinity from half-way to 2^128 on, and the zero of the decimal's sign. DESIGN CHOICE (log 20). -/
def binary32Of (neg : Bool) (num den : Nat) : Word := packSign neg (roundMag (num * 2 ^ 149) den)

/-- `1.0` (00_scope.md R8). -/
def fOne : Word := 0x3F800000#32

/-- `2.0` (43_pid.md). -/
def fTwo : Word := 0x40000000#32

/-- `clamp(q, S)` (43_pid.md R123). -/
def clamp (q sat : Word) : Word :=
  if fgt q sat then sat
  else if flt q (fneg sat) then fneg sat
  else q

end Sys2Proof.Machine
end

