-- ==== Sys2Proof/Syntax.lean ====
section
/-! DEFINITION. The commands of the QFCB as syntax: the ports, the three-word request, the cause codes by name, and
`Instr` with one constructor per row of spec/opcode_table.json (30_encoding.md R60 to R65, 60_exceptions.md R138). -/
namespace Sys2Proof

/-- The two ports (10_state.md R20). -/
inductive Port where
  | r
  | w
  deriving DecidableEq, Repr

/-- A request, always all three words (30_encoding.md R60). -/
structure Request where
  cmd : Word
  op0 : Word
  op1 : Word
  deriving DecidableEq, Repr

/-- The causes of an IllegalCommand (60_exceptions.md R138). -/
inductive Cause where
  | rsvdBits
  | rsvdFam
  | badOp
  | wrongPort
  | badInst
  | badIdx
  | roReg
  | badValue
  deriving DecidableEq, Repr

/-- One constructor per row of the opcode table (30_encoding.md R65). `inst` is `INST` and `idx` is `IDX`
(R61), kept in every command because the checks of 60_exceptions.md R139 that read them come after the port check;
`op0` and `op1` stand where R65 lists the operand word as used (R66: an unused one is ignored). -/
inductive Instr where
  -- SYS (44_system.md)
  | sysNop (inst idx : Byte)
  | sysStatR (inst idx : Byte)
  | sysStatC (inst idx : Byte)
  | sysParamR (inst idx : Byte)
  -- DB (40_double_buffer.md)
  | dbInit (inst idx : Byte)
  | dbRreg (inst idx : Byte)
  | dbRead (inst idx : Byte)
  | dbWrite (inst idx : Byte) (op0 op1 : Word)
  -- BIQ (41_biquad.md)
  | biqInit (inst idx : Byte)
  | biqWreg (inst idx : Byte) (op0 : Word)
  | biqRreg (inst idx : Byte)
  | biqSample (inst idx : Byte) (op0 : Word)
  -- CF1 (42_complementary.md)
  | cf1Init (inst idx : Byte)
  | cf1Wreg (inst idx : Byte) (op0 : Word)
  | cf1Rreg (inst idx : Byte)
  | cf1SampleAcc (inst idx : Byte) (op0 : Word)
  | cf1SampleGyr (inst idx : Byte) (op0 : Word)
  -- CF2 (42_complementary.md)
  | cf2Init (inst idx : Byte)
  | cf2Wreg (inst idx : Byte) (op0 : Word)
  | cf2Rreg (inst idx : Byte)
  | cf2SampleAcc (inst idx : Byte) (op0 : Word)
  | cf2SampleGyr (inst idx : Byte) (op0 : Word)
  -- PIDD (43_pid.md)
  | piddInit (inst idx : Byte)
  | piddWreg (inst idx : Byte) (op0 : Word)
  | piddRreg (inst idx : Byte)
  | piddCalc (inst idx : Byte) (op0 : Word)
  -- PIDT (43_pid.md)
  | pidtInit (inst idx : Byte)
  | pidtWreg (inst idx : Byte) (op0 : Word)
  | pidtRreg (inst idx : Byte)
  | pidtCalc (inst idx : Byte) (op0 op1 : Word)
  deriving DecidableEq, Repr

end Sys2Proof
end

