-- ==== Sys2Proof/WellFormed.lean ====
section
/-! DEFINITION. Well-formed commands: those that some block with legal parameters accepts on some port. Each check is
the part of 60_exceptions.md R139 (checks 5 and 6) that depends on the command word alone; the part that depends on
the block's parameters and on the port is made by the meanings. -/
namespace Sys2Proof

/-- The registers a BIQ command may name in some block, `BIQ_MAX_SEC ≤ 31` (10_state.md R26): NSEC, GAIN, and
`0x08+8s+k` with `k < 7`. -/
def biqListed (idx : Byte) : Bool :=
  decide (idx.toNat < 2) || (decide (8 ≤ idx.toNat) && decide (idx.toNat % 8 ≠ 7))

/-- The RW registers among them: NSEC, GAIN and the coefficients `k < 5` (10_state.md R26). -/
def biqWritable (idx : Byte) : Bool :=
  decide (idx.toNat < 2) || (decide (8 ≤ idx.toNat) && decide (idx.toNat % 8 < 5))

/-- Well-formedness of a command, by 30_encoding.md R67 and R68. -/
def Instr.wellFormed : Instr → Bool
  -- SYS: INST must be 0; IDX must be 0, but for PARAM_R, which takes 0..8
  | .sysNop inst idx => inst == 0 && idx == 0
  | .sysStatR inst idx => inst == 0 && idx == 0
  | .sysStatC inst idx => inst == 0 && idx == 0
  | .sysParamR inst idx => inst == 0 && decide (idx.toNat ≤ 8)
  -- every command that does not use IDX requires it to be 0; DB.RREG takes the CTRL index 0 only
  | .dbInit _ idx => idx == 0
  | .dbRreg _ idx => idx == 0
  | .dbRead _ idx => idx == 0
  | .dbWrite _ idx _ _ => idx == 0
  | .biqInit _ idx => idx == 0
  -- a WREG takes an RW index, and a value of NSEC at most 31; an RREG takes any listed index
  | .biqWreg _ idx op0 => biqWritable idx && (idx != 0 || decide (op0.toNat ≤ 31))
  | .biqRreg _ idx => biqListed idx
  | .biqSample _ idx _ => idx == 0
  | .cf1Init _ idx => idx == 0
  | .cf1Wreg _ idx _ => idx == 0
  | .cf1Rreg _ idx => decide (idx.toNat ≤ 2)
  | .cf1SampleAcc _ idx _ => idx == 0
  | .cf1SampleGyr _ idx _ => idx == 0
  | .cf2Init _ idx => idx == 0
  | .cf2Wreg _ idx _ => idx == 0
  | .cf2Rreg _ idx => decide (idx.toNat ≤ 4)
  | .cf2SampleAcc _ idx _ => idx == 0
  | .cf2SampleGyr _ idx _ => idx == 0
  | .piddInit _ idx => idx == 0
  | .piddWreg _ idx _ => decide (idx.toNat ≤ 2)
  | .piddRreg _ idx => decide (idx.toNat ≤ 8)
  | .piddCalc _ idx _ => idx == 0
  | .pidtInit _ idx => idx == 0
  | .pidtWreg _ idx _ => decide (idx.toNat ≤ 3)
  | .pidtRreg _ idx => decide (idx.toNat ≤ 5)
  | .pidtCalc _ idx _ _ => idx == 0

end Sys2Proof
end

