-- ==== Sys2Proof/Decode.lean ====
section
/-! DEFINITION. Decoding and encoding of commands: the fields of a command word (30_encoding.md R61), the opcode map
(R64, R65), checks 1 to 3 of 60_exceptions.md R139, and the encoder written from the same tables. -/
namespace Sys2Proof

/-- `FAM = CMD[31:28]` (30_encoding.md R61). -/
def famOf (cmd : Word) : BitVec 4 := cmd.extractLsb' 28 4

/-- `OP = CMD[27:24]` (30_encoding.md R61). -/
def opOf (cmd : Word) : BitVec 4 := cmd.extractLsb' 24 4

/-- `INST = CMD[23:16]` (30_encoding.md R61). -/
def instOf (cmd : Word) : Byte := cmd.extractLsb' 16 8

/-- `IDX = CMD[15:8]` (30_encoding.md R61). -/
def idxOf (cmd : Word) : Byte := cmd.extractLsb' 8 8

/-- `RSV = CMD[7:0]` (30_encoding.md R61). -/
def rsvOf (cmd : Word) : Byte := cmd.extractLsb' 0 8

/-- The opcode map of 30_encoding.md R65: the command that a listed (FAM, OP) pair selects, with the fields and the
operand words it uses; none for a pair that is not listed. -/
def selectOp (fam op : BitVec 4) (inst idx : Byte) (op0 op1 : Word) : Option Instr :=
  match fam.toNat, op.toNat with
  | 0, 0 => some (.sysNop inst idx)
  | 0, 1 => some (.sysStatR inst idx)
  | 0, 2 => some (.sysStatC inst idx)
  | 0, 3 => some (.sysParamR inst idx)
  | 1, 0 => some (.dbInit inst idx)
  | 1, 2 => some (.dbRreg inst idx)
  | 1, 3 => some (.dbRead inst idx)
  | 1, 4 => some (.dbWrite inst idx op0 op1)
  | 2, 0 => some (.biqInit inst idx)
  | 2, 1 => some (.biqWreg inst idx op0)
  | 2, 2 => some (.biqRreg inst idx)
  | 2, 3 => some (.biqSample inst idx op0)
  | 3, 0 => some (.cf1Init inst idx)
  | 3, 1 => some (.cf1Wreg inst idx op0)
  | 3, 2 => some (.cf1Rreg inst idx)
  | 3, 3 => some (.cf1SampleAcc inst idx op0)
  | 3, 4 => some (.cf1SampleGyr inst idx op0)
  | 4, 0 => some (.cf2Init inst idx)
  | 4, 1 => some (.cf2Wreg inst idx op0)
  | 4, 2 => some (.cf2Rreg inst idx)
  | 4, 3 => some (.cf2SampleAcc inst idx op0)
  | 4, 4 => some (.cf2SampleGyr inst idx op0)
  | 5, 0 => some (.piddInit inst idx)
  | 5, 1 => some (.piddWreg inst idx op0)
  | 5, 2 => some (.piddRreg inst idx)
  | 5, 3 => some (.piddCalc inst idx op0)
  | 6, 0 => some (.pidtInit inst idx)
  | 6, 1 => some (.pidtWreg inst idx op0)
  | 6, 2 => some (.pidtRreg inst idx)
  | 6, 3 => some (.pidtCalc inst idx op0 op1)
  | _, _ => none

/-- Decoding of a request: checks 1 to 3 of 60_exceptions.md R139 in order, each refusing by its cause, and then the
command that 30_encoding.md R65 names (30_encoding.md R74). -/
def decode (q : Request) : Except Cause Instr :=
  if rsvOf q.cmd ≠ 0 then .error .rsvdBits
  else if 7 ≤ (famOf q.cmd).toNat then .error .rsvdFam
  else
    match selectOp (famOf q.cmd) (opOf q.cmd) (instOf q.cmd) (idxOf q.cmd) q.op0 q.op1 with
    | none => .error .badOp
    | some i => .ok i

/-- `CMD = {FAM, OP, INST, IDX, 0x00}` (30_encoding.md R61, R75). -/
def cmdWord (fam op : BitVec 4) (inst idx : Byte) : Word := fam ++ op ++ inst ++ idx ++ 0#8

/-- The request that encodes a command, from 30_encoding.md R65; an operand word the command does not use is 0. -/
def encode : Instr → Request
  | .sysNop inst idx => ⟨cmdWord 0x0 0x0 inst idx, 0, 0⟩
  | .sysStatR inst idx => ⟨cmdWord 0x0 0x1 inst idx, 0, 0⟩
  | .sysStatC inst idx => ⟨cmdWord 0x0 0x2 inst idx, 0, 0⟩
  | .sysParamR inst idx => ⟨cmdWord 0x0 0x3 inst idx, 0, 0⟩
  | .dbInit inst idx => ⟨cmdWord 0x1 0x0 inst idx, 0, 0⟩
  | .dbRreg inst idx => ⟨cmdWord 0x1 0x2 inst idx, 0, 0⟩
  | .dbRead inst idx => ⟨cmdWord 0x1 0x3 inst idx, 0, 0⟩
  | .dbWrite inst idx op0 op1 => ⟨cmdWord 0x1 0x4 inst idx, op0, op1⟩
  | .biqInit inst idx => ⟨cmdWord 0x2 0x0 inst idx, 0, 0⟩
  | .biqWreg inst idx op0 => ⟨cmdWord 0x2 0x1 inst idx, op0, 0⟩
  | .biqRreg inst idx => ⟨cmdWord 0x2 0x2 inst idx, 0, 0⟩
  | .biqSample inst idx op0 => ⟨cmdWord 0x2 0x3 inst idx, op0, 0⟩
  | .cf1Init inst idx => ⟨cmdWord 0x3 0x0 inst idx, 0, 0⟩
  | .cf1Wreg inst idx op0 => ⟨cmdWord 0x3 0x1 inst idx, op0, 0⟩
  | .cf1Rreg inst idx => ⟨cmdWord 0x3 0x2 inst idx, 0, 0⟩
  | .cf1SampleAcc inst idx op0 => ⟨cmdWord 0x3 0x3 inst idx, op0, 0⟩
  | .cf1SampleGyr inst idx op0 => ⟨cmdWord 0x3 0x4 inst idx, op0, 0⟩
  | .cf2Init inst idx => ⟨cmdWord 0x4 0x0 inst idx, 0, 0⟩
  | .cf2Wreg inst idx op0 => ⟨cmdWord 0x4 0x1 inst idx, op0, 0⟩
  | .cf2Rreg inst idx => ⟨cmdWord 0x4 0x2 inst idx, 0, 0⟩
  | .cf2SampleAcc inst idx op0 => ⟨cmdWord 0x4 0x3 inst idx, op0, 0⟩
  | .cf2SampleGyr inst idx op0 => ⟨cmdWord 0x4 0x4 inst idx, op0, 0⟩
  | .piddInit inst idx => ⟨cmdWord 0x5 0x0 inst idx, 0, 0⟩
  | .piddWreg inst idx op0 => ⟨cmdWord 0x5 0x1 inst idx, op0, 0⟩
  | .piddRreg inst idx => ⟨cmdWord 0x5 0x2 inst idx, 0, 0⟩
  | .piddCalc inst idx op0 => ⟨cmdWord 0x5 0x3 inst idx, op0, 0⟩
  | .pidtInit inst idx => ⟨cmdWord 0x6 0x0 inst idx, 0, 0⟩
  | .pidtWreg inst idx op0 => ⟨cmdWord 0x6 0x1 inst idx, op0, 0⟩
  | .pidtRreg inst idx => ⟨cmdWord 0x6 0x2 inst idx, 0, 0⟩
  | .pidtCalc inst idx op0 op1 => ⟨cmdWord 0x6 0x3 inst idx, op0, op1⟩

/-- The port restriction of 30_encoding.md R65 and R70: the W port accepts DB.WRITE and SYS.NOP only, the R port
everything but DB.WRITE. -/
def allowedOn (p : Port) (fam op : BitVec 4) : Bool :=
  match p with
  | .r => !(fam == 1 && op == 4)
  | .w => (fam == 1 && op == 4) || (fam == 0 && op == 0)

/-- A request laid out as one number: `CMD` in bits 31..0, `OP0` in bits 63..32, `OP1` in bits 95..64, of which only
the low `nbits` are given and the rest are 0 (30_encoding.md R60). -/
def Request.ofNat (nbits w : Nat) : Request :=
  let v := w % 2 ^ nbits
  ⟨BitVec.ofNat 32 v, BitVec.ofNat 32 (v / 2 ^ 32), BitVec.ofNat 32 (v / 2 ^ 64)⟩

/-- The instruction the decoder reads from an instruction whose bits are `w`; none where it refuses. -/
def decodeTableWord (nbits w : Nat) : Option Instr :=
  match decode (Request.ofNat nbits w) with
  | .ok i => some i
  | .error _ => none

/-- The port on which 30_encoding.md R65 allows the request's command (SYS.NOP, allowed on both, and the requests
that no port allows are put on the R port). -/
def Request.tablePort (q : Request) : Port :=
  if allowedOn .r (famOf q.cmd) (opOf q.cmd) then .r else .w

end Sys2Proof
end

