-- ==== Sys2Proof/Machine/State.lean ====
section
/-! DEFINITION. The state of the QFCB as plain data (10_state.md R23 to R37), the model's own input, output and
counter fields, and the state right after reset (70_reset_and_hazards.md R156). -/
namespace Sys2Proof.Machine

/-- `DB[i]` (10_state.md R25). A slot is the list of its `DB_SLOT_WORDS` payload words; `rsel = false` selects
`SLOT[0]`, `rsel = true` selects `SLOT[1]`; `fresh` is the bit `NEW`. -/
structure DbInst where
  slot0 : List Word
  slot1 : List Word
  rsel : Bool
  fresh : Bool
  deriving DecidableEq, Repr

/-- `BIQ[i].SEC[s]` (10_state.md R26). -/
structure Section where
  b0 : Word
  b1 : Word
  b2 : Word
  a1 : Word
  a2 : Word
  s0 : Word
  s1 : Word
  deriving DecidableEq, Repr

/-- `BIQ[i]` (10_state.md R26); `secs` holds its `BIQ_MAX_SEC` sections in order. -/
structure BiqInst where
  nsec : Word
  gain : Word
  secs : List Section
  deriving DecidableEq, Repr

/-- `CF1[i]` (10_state.md R27). -/
structure Cf1Inst where
  tau : Word
  xprev : Word
  yprev : Word
  deriving DecidableEq, Repr

/-- `CF2[i]` (10_state.md R28). -/
structure Cf2Inst where
  tau : Word
  x1 : Word
  x2 : Word
  y1 : Word
  y2 : Word
  deriving DecidableEq, Repr

/-- `PIDD[i]` (10_state.md R29). -/
structure PiddInst where
  kp : Word
  ki : Word
  kd : Word
  k1 : Word
  k2 : Word
  k3 : Word
  e1 : Word
  e2 : Word
  uprev : Word
  deriving DecidableEq, Repr

/-- `PIDT[i]` (10_state.md R30). -/
structure PidtInst where
  kp : Word
  ki : Word
  kd : Word
  sat : Word
  integ : Word
  eprev : Word
  deriving DecidableEq, Repr

/-- A response `{FLAGS, D0, D1}` (30_encoding.md R60, R63). -/
structure Resp where
  flags : Word
  d0 : Word
  d1 : Word
  deriving DecidableEq, Repr

/-- What an agent does to the block (10_state.md R20): a command on a port, or a reset. A command that is in flight
when a reset arrives is completed before it, takes effect after it, or is discarded (70_reset_and_hazards.md R155):
the first two are the order of events, and `rDiscarded`, `wDiscarded` say on which ports a command was discarded. -/
inductive Event where
  | command (p : Port) (q : Request)
  | reset (rDiscarded wDiscarded : Bool)
  deriving DecidableEq, Repr

/-- The state. `params` is the parameter table, which no step writes (10_state.md R32; log 1). `db` to `status` are
the block's registers. The rest is the model's own: `port` is the port of the command in service (log 4), `rResp` and
`wResp` the last response on each port, which no step reads (log 5), `inputs` what is still to take effect, in that
order (log 2), and `draws` the count of free values drawn (log 6). -/
structure State where
  params : Params
  db : List DbInst
  biq : List BiqInst
  cf1 : List Cf1Inst
  cf2 : List Cf2Inst
  pidd : List PiddInst
  pidt : List PidtInst
  status : Word
  port : Port
  rResp : Resp
  wResp : Resp
  inputs : List Event
  draws : Nat
  deriving DecidableEq, Repr

/-- The reasons a step can stop with a fault: there are none. No command, value or encoding stops the block
(00_scope.md R11, 60_exceptions.md R136, R137, R140), so this type has no constructor (safe: log 12). -/
inductive Fault where
  deriving DecidableEq, Repr

/-- The reasons a step can be refused. -/
inductive Refusal where
  /-- An instruction without a meaning yet: raised by an arm of `exec` that rejects it by name. Safe: the model stops
  where the hardware goes on. No arm raises it (log 12). -/
  | notModelled (mnemonic : String)
  deriving DecidableEq, Repr

/-- A DB instance at reset, its slots `words` words long (70_reset_and_hazards.md R156). -/
def DbInst.zero (words : Nat) : DbInst :=
  { slot0 := List.replicate words 0, slot1 := List.replicate words 0, rsel := false, fresh := false }

/-- A section at reset (70_reset_and_hazards.md R156). -/
def Section.zero : Section := { b0 := 0, b1 := 0, b2 := 0, a1 := 0, a2 := 0, s0 := 0, s1 := 0 }

/-- A BIQ instance at reset, with `maxSec` sections (70_reset_and_hazards.md R156). -/
def BiqInst.zero (maxSec : Nat) : BiqInst :=
  { nsec := 0, gain := 0, secs := List.replicate maxSec Section.zero }

/-- A CF1 instance at reset (70_reset_and_hazards.md R156). -/
def Cf1Inst.zero : Cf1Inst := { tau := 0, xprev := 0, yprev := 0 }

/-- A CF2 instance at reset (70_reset_and_hazards.md R156). -/
def Cf2Inst.zero : Cf2Inst := { tau := 0, x1 := 0, x2 := 0, y1 := 0, y2 := 0 }

/-- A PIDD instance at reset (70_reset_and_hazards.md R156): K2 is +0.0 here. -/
def PiddInst.zero : PiddInst :=
  { kp := 0, ki := 0, kd := 0, k1 := 0, k2 := 0, k3 := 0, e1 := 0, e2 := 0, uprev := 0 }

/-- A PIDT instance at reset (70_reset_and_hazards.md R156). -/
def PidtInst.zero : PidtInst := { kp := 0, ki := 0, kd := 0, sat := 0, integ := 0, eprev := 0 }

/-- The response that carries nothing: legal, no result (30_encoding.md R63). -/
def Resp.zero : Resp := { flags := 0, d0 := 0, d1 := 0 }

/-- A block with the parameters `p` right after reset: every register of every instance, every slot word, RSEL, NEW
and STATUS all-zero (10_state.md R37, 70_reset_and_hazards.md R156). The model's own fields: no input waits (log 2),
the R port is in service (log 4), both responses are zero (log 5), no free value is drawn (log 6). -/
def State.resetWith (p : Params) : State :=
  { params := p
    db := List.replicate p.nDb (DbInst.zero p.dbSlotWords)
    biq := List.replicate p.nBiq (BiqInst.zero p.biqMaxSec)
    cf1 := List.replicate p.nCf1 Cf1Inst.zero
    cf2 := List.replicate p.nCf2 Cf2Inst.zero
    pidd := List.replicate p.nPidd PiddInst.zero
    pidt := List.replicate p.nPidt PidtInst.zero
    status := 0
    port := .r
    rResp := Resp.zero
    wResp := Resp.zero
    inputs := []
    draws := 0 }

/-- The machine right after reset, with the parameter values of 00_scope.md R6's last column (log 1). -/
def State.reset : State := State.resetWith Config.params

end Sys2Proof.Machine
end

