-- ==== Sys2Proof/Machine/Flags.lean ====
section
/-! DEFINITION. The bit fields the QFCB shows: cause codes (60_exceptions.md R138), the response word FLAGS
(30_encoding.md R63), STATUS and its record of illegal commands (10_state.md R33, 60_exceptions.md R141), and the DB
view CTRL (10_state.md R25). There are no arithmetic flags (10_state.md R34). -/
namespace Sys2Proof.Machine

/-- The 4-bit cause codes (60_exceptions.md R138). -/
def causeCode : Cause → BitVec 4
  | .rsvdBits => 1
  | .rsvdFam => 2
  | .badOp => 3
  | .wrongPort => 4
  | .badInst => 5
  | .badIdx => 6
  | .roReg => 7
  | .badValue => 8

/-- FLAGS: ILL in bit 0, CAUSE in bits 7:4, NEW in bit 8, SLOT in bit 9, every other bit 0 (30_encoding.md R63). -/
def flagsWord (ill : Bool) (cause : BitVec 4) (fresh slot : Bool) : Word :=
  0#22 ++ BitVec.ofBool slot ++ BitVec.ofBool fresh ++ cause ++ 0#3 ++ BitVec.ofBool ill

/-- `RESP.ILL` (30_encoding.md R63). -/
def Resp.ill (r : Resp) : Bool := r.flags.getLsbD 0

/-- `RESP.CAUSE` (30_encoding.md R63). -/
def Resp.cause (r : Resp) : BitVec 4 := r.flags.extractLsb' 4 4

/-- `RESP.NEW` (30_encoding.md R63). -/
def Resp.fresh (r : Resp) : Bool := r.flags.getLsbD 8

/-- `RESP.SLOT` (30_encoding.md R63). -/
def Resp.slot (r : Resp) : Bool := r.flags.getLsbD 9

/-- The response of a legal command with the results `d0` and `d1` (30_encoding.md R63, R66). -/
def Resp.ofData (d0 d1 : Word) : Resp := { flags := flagsWord false 0 false false, d0 := d0, d1 := d1 }

/-- The response of an illegal command: FLAGS = {CAUSE, ILL=1}, zero data (30_encoding.md R63, 60_exceptions.md R140). -/
def Resp.ofCause (c : Cause) : Resp := { flags := flagsWord true (causeCode c) false false, d0 := 0, d1 := 0 }

/-- The sticky bit of a port in STATUS: ILLR is bit 0, ILLW bit 1 (10_state.md R33). -/
def statusIll (p : Port) (status : Word) : Bool :=
  match p with
  | .r => status.getLsbD 0
  | .w => status.getLsbD 1

/-- The cause field of a port in STATUS: RCAUSE is bits 11:8, WCAUSE bits 15:12 (10_state.md R33). -/
def statusCause (p : Port) (status : Word) : BitVec 4 :=
  match p with
  | .r => status.extractLsb' 8 4
  | .w => status.extractLsb' 12 4

/-- `record(p, cause)`: the port's sticky bit and cause field are written where the sticky bit is 0; otherwise STATUS
is unchanged, so the first cause is kept (60_exceptions.md R141). -/
def recordCause (p : Port) (c : Cause) (status : Word) : Word :=
  if statusIll p status then status
  else
    match p with
    | .r => (status &&& 0xFFFFF0FF#32) ||| ((causeCode c).setWidth 32 <<< 8) ||| 1#32
    | .w => (status &&& 0xFFFF0FFF#32) ||| ((causeCode c).setWidth 32 <<< 12) ||| 2#32

/-- The CTRL view of a DB instance: bit 0 is RSEL, bit 1 is NEW, every other bit 0 (10_state.md R25). -/
def ctrlWord (d : DbInst) : Word := 0#30 ++ BitVec.ofBool d.fresh ++ BitVec.ofBool d.rsel

end Sys2Proof.Machine
end

