-- ==== Sys2Proof/Machine/Operands.lean ====
section
/-! DEFINITION. The register index maps (10_state.md R24 to R30, 44_system.md R133): which register an `IDX` names,
its access class, and reading and writing it. An index that a map does not list names no register
(20_memory.md R46). -/
namespace Sys2Proof.Machine

/-- The access classes that an index can have (10_state.md R24). -/
inductive RegClass where
  | rw
  | roState
  | roDerived
  deriving DecidableEq, Repr

/-- The registers of one BIQ section, at offsets 0 to 6 (10_state.md R26). -/
inductive SecReg where
  | b0
  | b1
  | b2
  | a1
  | a2
  | s0
  | s1
  deriving DecidableEq, Repr

/-- The registers of a BIQ instance (10_state.md R26). -/
inductive BiqReg where
  | nsec
  | gain
  | sec (s : Nat) (r : SecReg)
  deriving DecidableEq, Repr

/-- The registers of a CF1 instance (10_state.md R27). -/
inductive Cf1Reg where
  | tau
  | xprev
  | yprev
  deriving DecidableEq, Repr

/-- The registers of a CF2 instance (10_state.md R28). -/
inductive Cf2Reg where
  | tau
  | x1
  | x2
  | y1
  | y2
  deriving DecidableEq, Repr

/-- The registers of a PIDD instance (10_state.md R29). -/
inductive PiddReg where
  | kp
  | ki
  | kd
  | k1
  | k2
  | k3
  | e1
  | e2
  | uprev
  deriving DecidableEq, Repr

/-- The registers of a PIDT instance (10_state.md R30). -/
inductive PidtReg where
  | kp
  | ki
  | kd
  | sat
  | integ
  | eprev
  deriving DecidableEq, Repr

/-- The section register at an offset; offset 7 is reserved (10_state.md R26). -/
def secReg : Nat → Option SecReg
  | 0 => some .b0
  | 1 => some .b1
  | 2 => some .b2
  | 3 => some .a1
  | 4 => some .a2
  | 5 => some .s0
  | 6 => some .s1
  | _ => none

/-- The BIQ register that `IDX` names where the block holds `maxSec` sections: `0x08+8s+k` is register `k` of section
`s`; 0x02 to 0x07 and the sections `s ≥ maxSec` are reserved (10_state.md R26). -/
def biqReg (maxSec : Nat) (idx : Byte) : Option BiqReg :=
  let n := idx.toNat
  if n = 0 then some .nsec
  else if n = 1 then some .gain
  else if n < 8 then none
  else if (n - 8) / 8 < maxSec then (secReg ((n - 8) % 8)).map (BiqReg.sec ((n - 8) / 8))
  else none

/-- The CF1 register that `IDX` names (10_state.md R27). -/
def cf1Reg (idx : Byte) : Option Cf1Reg :=
  match idx.toNat with
  | 0 => some .tau
  | 1 => some .xprev
  | 2 => some .yprev
  | _ => none

/-- The CF2 register that `IDX` names (10_state.md R28). -/
def cf2Reg (idx : Byte) : Option Cf2Reg :=
  match idx.toNat with
  | 0 => some .tau
  | 1 => some .x1
  | 2 => some .x2
  | 3 => some .y1
  | 4 => some .y2
  | _ => none

/-- The PIDD register that `IDX` names (10_state.md R29). -/
def piddReg (idx : Byte) : Option PiddReg :=
  match idx.toNat with
  | 0 => some .kp
  | 1 => some .ki
  | 2 => some .kd
  | 3 => some .k1
  | 4 => some .k2
  | 5 => some .k3
  | 6 => some .e1
  | 7 => some .e2
  | 8 => some .uprev
  | _ => none

/-- The PIDT register that `IDX` names (10_state.md R30). -/
def pidtReg (idx : Byte) : Option PidtReg :=
  match idx.toNat with
  | 0 => some .kp
  | 1 => some .ki
  | 2 => some .kd
  | 3 => some .sat
  | 4 => some .integ
  | 5 => some .eprev
  | _ => none

/-- The classes of the BIQ registers (10_state.md R26). -/
def biqClass : BiqReg → RegClass
  | .sec _ .s0 => .roState
  | .sec _ .s1 => .roState
  | _ => .rw

/-- The classes of the CF1 registers (10_state.md R27). -/
def cf1Class : Cf1Reg → RegClass
  | .tau => .rw
  | .xprev => .roState
  | .yprev => .roState

/-- The classes of the CF2 registers (10_state.md R28). -/
def cf2Class : Cf2Reg → RegClass
  | .tau => .rw
  | .x1 => .roState
  | .x2 => .roState
  | .y1 => .roState
  | .y2 => .roState

/-- The classes of the PIDD registers (10_state.md R29). -/
def piddClass : PiddReg → RegClass
  | .kp => .rw
  | .ki => .rw
  | .kd => .rw
  | .k1 => .roDerived
  | .k2 => .roDerived
  | .k3 => .roDerived
  | .e1 => .roState
  | .e2 => .roState
  | .uprev => .roState

/-- The classes of the PIDT registers (10_state.md R30). -/
def pidtClass : PidtReg → RegClass
  | .kp => .rw
  | .ki => .rw
  | .kd => .rw
  | .sat => .rw
  | .integ => .roState
  | .eprev => .roState

/-- Reading a section register. -/
def Section.read (c : Section) : SecReg → Word
  | .b0 => c.b0
  | .b1 => c.b1
  | .b2 => c.b2
  | .a1 => c.a1
  | .a2 => c.a2
  | .s0 => c.s0
  | .s1 => c.s1

/-- Writing a section register, bit-exact (10_state.md R24). -/
def Section.write (c : Section) (v : Word) : SecReg → Section
  | .b0 => { c with b0 := v }
  | .b1 => { c with b1 := v }
  | .b2 => { c with b2 := v }
  | .a1 => { c with a1 := v }
  | .a2 => { c with a2 := v }
  | .s0 => { c with s0 := v }
  | .s1 => { c with s1 := v }

/-- Reading a BIQ register (41_biquad.md R92). -/
def BiqInst.read (b : BiqInst) : BiqReg → Word
  | .nsec => b.nsec
  | .gain => b.gain
  | .sec s r => (b.secs.getD s Section.zero).read r

/-- Writing a BIQ register, bit-exact (41_biquad.md R91). -/
def BiqInst.write (b : BiqInst) (v : Word) : BiqReg → BiqInst
  | .nsec => { b with nsec := v }
  | .gain => { b with gain := v }
  | .sec s r => { b with secs := b.secs.set s ((b.secs.getD s Section.zero).write v r) }

/-- Reading a CF1 register (42_complementary.md R102). -/
def Cf1Inst.read (c : Cf1Inst) : Cf1Reg → Word
  | .tau => c.tau
  | .xprev => c.xprev
  | .yprev => c.yprev

/-- Writing a CF1 register, bit-exact (42_complementary.md R101). -/
def Cf1Inst.write (c : Cf1Inst) (v : Word) : Cf1Reg → Cf1Inst
  | .tau => { c with tau := v }
  | .xprev => { c with xprev := v }
  | .yprev => { c with yprev := v }

/-- Reading a CF2 register (42_complementary.md R109). -/
def Cf2Inst.read (c : Cf2Inst) : Cf2Reg → Word
  | .tau => c.tau
  | .x1 => c.x1
  | .x2 => c.x2
  | .y1 => c.y1
  | .y2 => c.y2

/-- Writing a CF2 register, bit-exact (42_complementary.md R108). -/
def Cf2Inst.write (c : Cf2Inst) (v : Word) : Cf2Reg → Cf2Inst
  | .tau => { c with tau := v }
  | .x1 => { c with x1 := v }
  | .x2 => { c with x2 := v }
  | .y1 => { c with y1 := v }
  | .y2 => { c with y2 := v }

/-- Reading a PIDD register (43_pid.md R117). -/
def PiddInst.read (c : PiddInst) : PiddReg → Word
  | .kp => c.kp
  | .ki => c.ki
  | .kd => c.kd
  | .k1 => c.k1
  | .k2 => c.k2
  | .k3 => c.k3
  | .e1 => c.e1
  | .e2 => c.e2
  | .uprev => c.uprev

/-- Writing a PIDD register, bit-exact (43_pid.md R116). -/
def PiddInst.write (c : PiddInst) (v : Word) : PiddReg → PiddInst
  | .kp => { c with kp := v }
  | .ki => { c with ki := v }
  | .kd => { c with kd := v }
  | .k1 => { c with k1 := v }
  | .k2 => { c with k2 := v }
  | .k3 => { c with k3 := v }
  | .e1 => { c with e1 := v }
  | .e2 => { c with e2 := v }
  | .uprev => { c with uprev := v }

/-- Reading a PIDT register (43_pid.md R121). -/
def PidtInst.read (c : PidtInst) : PidtReg → Word
  | .kp => c.kp
  | .ki => c.ki
  | .kd => c.kd
  | .sat => c.sat
  | .integ => c.integ
  | .eprev => c.eprev

/-- Writing a PIDT register, bit-exact (43_pid.md R120). -/
def PidtInst.write (c : PidtInst) (v : Word) : PidtReg → PidtInst
  | .kp => { c with kp := v }
  | .ki => { c with ki := v }
  | .kd => { c with kd := v }
  | .sat => { c with sat := v }
  | .integ => { c with integ := v }
  | .eprev => { c with eprev := v }

/-- The parameter table of SYS.PARAM_R, indices 0 to 8 (44_system.md R133, 10_state.md R32). -/
def paramValue (p : Params) (idx : Byte) : Option Nat :=
  match idx.toNat with
  | 0 => some p.nDb
  | 1 => some p.nBiq
  | 2 => some p.nCf1
  | 3 => some p.nCf2
  | 4 => some p.nPidd
  | 5 => some p.nPidt
  | 6 => some p.biqMaxSec
  | 7 => some p.dbSlotWords
  | 8 => some Config.specRev
  | _ => none

end Sys2Proof.Machine
end

