-- ==== Sys2Proof/Machine/Ops.lean ====
section
/-! DEFINITION. The named operations that the meanings share: finding and replacing an instance, answering a command,
raising IllegalCommand, the legality checks of 60_exceptions.md R139, block reset, taking the next event, and the
packing of a DB payload. -/
namespace Sys2Proof.Machine

/-! ### Instances (10_state.md R23)

A command reaches an instance only past check 5 (60_exceptions.md R139), so in every state a block can be in the list
holds it. In the other states the lookup answers the reset instance and the replacement changes nothing (log 10). -/

/-- `DB[inst]`. -/
def State.dbAt (s : State) (inst : Byte) : DbInst := s.db.getD inst.toNat (DbInst.zero s.params.dbSlotWords)

/-- `BIQ[inst]`. -/
def State.biqAt (s : State) (inst : Byte) : BiqInst := s.biq.getD inst.toNat (BiqInst.zero s.params.biqMaxSec)

/-- `CF1[inst]`. -/
def State.cf1At (s : State) (inst : Byte) : Cf1Inst := s.cf1.getD inst.toNat Cf1Inst.zero

/-- `CF2[inst]`. -/
def State.cf2At (s : State) (inst : Byte) : Cf2Inst := s.cf2.getD inst.toNat Cf2Inst.zero

/-- `PIDD[inst]`. -/
def State.piddAt (s : State) (inst : Byte) : PiddInst := s.pidd.getD inst.toNat PiddInst.zero

/-- `PIDT[inst]`. -/
def State.pidtAt (s : State) (inst : Byte) : PidtInst := s.pidt.getD inst.toNat PidtInst.zero

/-- `DB[inst] <- d`. -/
def State.setDb (s : State) (inst : Byte) (d : DbInst) : State := { s with db := s.db.set inst.toNat d }

/-- `BIQ[inst] <- b`. -/
def State.setBiq (s : State) (inst : Byte) (b : BiqInst) : State := { s with biq := s.biq.set inst.toNat b }

/-- `CF1[inst] <- c`. -/
def State.setCf1 (s : State) (inst : Byte) (c : Cf1Inst) : State := { s with cf1 := s.cf1.set inst.toNat c }

/-- `CF2[inst] <- c`. -/
def State.setCf2 (s : State) (inst : Byte) (c : Cf2Inst) : State := { s with cf2 := s.cf2.set inst.toNat c }

/-- `PIDD[inst] <- c`. -/
def State.setPidd (s : State) (inst : Byte) (c : PiddInst) : State := { s with pidd := s.pidd.set inst.toNat c }

/-- `PIDT[inst] <- c`. -/
def State.setPidt (s : State) (inst : Byte) (c : PidtInst) : State := { s with pidt := s.pidt.set inst.toNat c }

/-- Count `n` more free values as drawn: one for each arithmetic primitive of a command, so that every primitive
result has a pattern of its own should it be a NaN (00_scope.md R12; log 6). -/
def State.drew (s : State) (n : Nat) : State := { s with draws := s.draws + n }

/-! ### Responses and the illegal-command exception -/

/-- Drive a response on a port (30_encoding.md R60). -/
def State.respondOn (s : State) (p : Port) (r : Resp) : State :=
  { s with rResp := if p = .r then r else s.rResp, wResp := if p = .w then r else s.wResp }

/-- Answer the command in service, on its port (30_encoding.md R60). -/
def State.respond (s : State) (r : Resp) : State := s.respondOn s.port r

/-- Raise IllegalCommand: the response carries ILL, the cause and zero data, and STATUS records the cause; no other
state changes (60_exceptions.md R140, R141). It saves nothing and returns nowhere (R145). -/
def State.raiseIllegal (s : State) (c : Cause) : State :=
  ({ s with status := recordCause s.port c s.status }).respond (Resp.ofCause c)

/-! ### The legality checks (60_exceptions.md R139) -/

/-- The cause of the first check that fails. -/
def firstFailing : List (Bool × Cause) → Option Cause
  | [] => none
  | (fails, c) :: rest => if fails then some c else firstFailing rest

/-- A command's outcome: IllegalCommand with the cause of the first failing check, or else the state `t` that the
command's rule gives. Either way the block goes on (60_exceptions.md R139, R140). -/
def State.conclude (s : State) (checks : List (Bool × Cause)) (t : State) : Host.Outcome State Fault Refusal :=
  match firstFailing checks with
  | some c => .next (s.raiseIllegal c)
  | none => .next t

/-- Check 4 for a command that only the port `p` accepts (30_encoding.md R65, R70). -/
def State.portCheck (s : State) (p : Port) : Bool × Cause := (s.port != p, .wrongPort)

/-- Check 5 for a family of `n` instances; SYS has exactly one (30_encoding.md R64, R68). -/
def instCheck (n : Nat) (inst : Byte) : Bool × Cause := (decide (n ≤ inst.toNat), .badInst)

/-- Check 6a for a command that does not use IDX (30_encoding.md R67). -/
def idxCheck (idx : Byte) : Bool × Cause := (idx != 0, .badIdx)

/-- Checks 4 to 6 of a command on port `p` that does not use IDX. -/
def State.opChecks (s : State) (p : Port) (n : Nat) (inst idx : Byte) : List (Bool × Cause) :=
  [s.portCheck p, instCheck n inst, idxCheck idx]

/-- Checks 4 to 6 of an RREG, given the class of the register that IDX names, if it names one. -/
def State.rregChecks (s : State) (n : Nat) (inst : Byte) (named : Option RegClass) : List (Bool × Cause) :=
  [s.portCheck .r, instCheck n inst, (named.isNone, .badIdx)]

/-- Checks 4 to 6b of a WREG, given the class of the register that IDX names, if it names one: a reserved index is
BAD_IDX, a listed read-only register RO_REG. -/
def State.wregChecks (s : State) (n : Nat) (inst : Byte) (named : Option RegClass) : List (Bool × Cause) :=
  [s.portCheck .r, instCheck n inst, (named.isNone, .badIdx), (named != some .rw, .roReg)]

/-! ### Events -/

/-- The next event and the state without it; none where nothing is to take effect (20_memory.md R53; log 2). -/
def State.nextEvent (s : State) : Option (Event × State) :=
  match s.inputs with
  | [] => none
  | e :: rest => some (e, { s with inputs := rest })

/-- Take a command into service on its port (log 4). -/
def State.serve (s : State) (p : Port) : State := { s with port := p }

/-- Put an event in front of those still to take effect. -/
def State.offer (s : State) (e : Event) : State := { s with inputs := e :: s.inputs }

/-- A response of three free words, on a port whose command a reset discarded (70_reset_and_hazards.md R155;
93_implementation_defined.md I14; log 8). -/
def State.discardOn (s : State) (p : Port) (discarded : Bool) : State :=
  if discarded then
    (s.respondOn p
      { flags := Config.discardedWord s.draws, d0 := Config.discardedWord (s.draws + 1),
        d1 := Config.discardedWord (s.draws + 2) }).drew 3
  else s

/-- Block reset: every register of every instance and STATUS to the value of 70_reset_and_hazards.md R156, in one
step (R155). The parameters and the free values stay (R157). A command that the reset discards has no effect, and its
response is free. -/
def State.blockReset (s : State) (rDiscarded wDiscarded : Bool) : State :=
  let z := State.resetWith s.params
  (({ s with
      db := z.db, biq := z.biq, cf1 := z.cf1, cf2 := z.cf2, pidd := z.pidd, pidt := z.pidt,
      status := z.status }).discardOn .r rDiscarded).discardOn .w wDiscarded

/-! ### DB payloads -/

/-- Byte `j` of a payload held in slot words, packed little-endian (20_memory.md R48). -/
def payloadByte (slot : List Word) (j : Nat) : Byte := (slot.getD (j / 4) 0).extractLsb' (8 * (j % 4)) 8

/-- Word `w` of the packing of a payload's bytes, little-endian (20_memory.md R48). R48 does not say what stands in the
bytes that the payload does not have: 0, DESIGN CHOICE (log 21). -/
def payloadWord (bytes : List Byte) (w : Nat) : Word :=
  bytes.getD (4 * w + 3) 0 ++ bytes.getD (4 * w + 2) 0 ++ bytes.getD (4 * w + 1) 0 ++ bytes.getD (4 * w) 0

end Sys2Proof.Machine
end

