-- ==== Sys2Proof/Machine/Biq.lean ====
section
/-! DEFINITION. The BIQ family: the cascaded biquad pre-filter (41_biquad.md). -/
namespace Sys2Proof.Machine

/-- One section of the cascade on the input `v`: the section with its new state words, and its output. Both new words
are computed from the old ones; A1 and A2 are subtracted (41_biquad.md R93, R95). It takes the nine primitives
numbered from `k`. -/
def sectionStep (k : Nat) (v : Word) (c : Section) : Section × Word :=
  let y := fadd (k + 1) (fmul k c.b0 v) c.s0
  let n0 := fsub (k + 5) (fadd (k + 3) (fmul (k + 2) c.b1 v) c.s1) (fmul (k + 4) c.a1 y)
  let n1 := fsub (k + 8) (fmul (k + 6) c.b2 v) (fmul (k + 7) c.a2 y)
  ({ c with s0 := n0, s1 := n1 }, y)

/-- The first `n` sections in order, each output the next input; the sections from `n` on are untouched. The result is
all the sections and the last output (41_biquad.md R93). -/
def cascade (k : Nat) (v : Word) : Nat → List Section → List Section × Word
  | 0, secs => (secs, v)
  | _ + 1, [] => ([], v)
  | n + 1, c :: rest =>
    let r := sectionStep k v c
    let t := cascade (k + 9) r.2 n rest
    (r.1 :: t.1, t.2)

/-- The delay line cleared in every section, active or not (41_biquad.md R90). -/
def Section.cleared (c : Section) : Section := { c with s0 := 0, s1 := 0 }

/-- BIQ.INIT: every state word is cleared; NSEC, GAIN and the coefficients stay (41_biquad.md R90). -/
def execBiqInit (inst idx : Byte) (s : State) : Host.Outcome State Fault Refusal :=
  let b := s.biqAt inst
  s.conclude (s.opChecks .r s.params.nBiq inst idx)
    ((s.setBiq inst { b with secs := b.secs.map Section.cleared }).respond (Resp.ofData 0 0))

/-- BIQ.WREG: the RW register that IDX names takes OP0, bit-exact; a value of NSEC above BIQ_MAX_SEC (unsigned) is
BAD_VALUE and not written (41_biquad.md R91, 60_exceptions.md R139 check 6c). -/
def execBiqWreg (inst idx : Byte) (op0 : Word) (s : State) : Host.Outcome State Fault Refusal :=
  let reg := biqReg s.params.biqMaxSec idx
  let b := s.biqAt inst
  s.conclude
    (s.wregChecks s.params.nBiq inst (reg.map biqClass) ++
      [(reg == some .nsec && decide (s.params.biqMaxSec < op0.toNat), .badValue)])
    ((s.setBiq inst (reg.elim b (b.write op0))).respond (Resp.ofData 0 0))

/-- BIQ.RREG: D0 is the register that IDX names (41_biquad.md R92). -/
def execBiqRreg (inst idx : Byte) (s : State) : Host.Outcome State Fault Refusal :=
  let reg := biqReg s.params.biqMaxSec idx
  s.conclude (s.rregChecks s.params.nBiq inst (reg.map biqClass))
    (s.respond (Resp.ofData (reg.elim 0 (s.biqAt inst).read) 0))

/-- BIQ.SAMPLE: the first NSEC sections in order, then the output scaled by GAIN (41_biquad.md R93, R96). -/
def execBiqSample (inst idx : Byte) (op0 : Word) (s : State) : Host.Outcome State Fault Refusal :=
  let b := s.biqAt inst
  let n := b.nsec.toNat
  let r := cascade s.draws op0 n b.secs
  s.conclude (s.opChecks .r s.params.nBiq inst idx)
    (((s.setBiq inst { b with secs := r.1 }).drew (9 * n + 1)).respond
      (Resp.ofData (fmul (s.draws + 9 * n) r.2 b.gain) 0))

end Sys2Proof.Machine
end

