-- ==== Sys2Proof/Machine/Cf1.lean ====
section
/-! DEFINITION. The CF1 family: the first-order complementary filter, its branch selected by the opcode
(42_complementary.md R100 to R104, R113; 90_conflicts.md C5). -/
namespace Sys2Proof.Machine

/-- The output of the accelerometer branch, `(x + x_prev - y_prev*(1-tau)) / (tau+1)` (42_complementary.md R103), by the
six primitives numbered from `k`. -/
def cf1Acc (k : Nat) (x : Word) (c : Cf1Inst) : Word :=
  let a := fadd k x c.xprev
  let b := fmul (k + 2) c.yprev (fsub (k + 1) fOne c.tau)
  let n := fsub (k + 3) a b
  fdiv (k + 5) n (fadd (k + 4) c.tau fOne)

/-- The output of the gyro branch, `(x*tau + x_prev*tau - y_prev*(1-tau)) / (tau+1)` (42_complementary.md R104), by the
eight primitives numbered from `k`: the two products are rounded separately. -/
def cf1Gyr (k : Nat) (x : Word) (c : Cf1Inst) : Word :=
  let a := fadd (k + 2) (fmul k x c.tau) (fmul (k + 1) c.xprev c.tau)
  let b := fmul (k + 4) c.yprev (fsub (k + 3) fOne c.tau)
  let n := fsub (k + 5) a b
  fdiv (k + 7) n (fadd (k + 6) c.tau fOne)

/-- CF1.INIT: XPREV and YPREV are cleared, TAU stays (42_complementary.md R100). -/
def execCf1Init (inst idx : Byte) (s : State) : Host.Outcome State Fault Refusal :=
  s.conclude (s.opChecks .r s.params.nCf1 inst idx)
    ((s.setCf1 inst { s.cf1At inst with xprev := 0, yprev := 0 }).respond (Resp.ofData 0 0))

/-- CF1.WREG: TAU takes OP0, bit-exact (42_complementary.md R101). -/
def execCf1Wreg (inst idx : Byte) (op0 : Word) (s : State) : Host.Outcome State Fault Refusal :=
  let c := s.cf1At inst
  s.conclude (s.wregChecks s.params.nCf1 inst ((cf1Reg idx).map cf1Class))
    ((s.setCf1 inst ((cf1Reg idx).elim c (c.write op0))).respond (Resp.ofData 0 0))

/-- CF1.RREG: D0 is the register that IDX names (42_complementary.md R102). -/
def execCf1Rreg (inst idx : Byte) (s : State) : Host.Outcome State Fault Refusal :=
  s.conclude (s.rregChecks s.params.nCf1 inst ((cf1Reg idx).map cf1Class))
    (s.respond (Resp.ofData ((cf1Reg idx).elim 0 (s.cf1At inst).read) 0))

/-- CF1.SAMPLE_ACC (42_complementary.md R103). -/
def execCf1SampleAcc (inst idx : Byte) (op0 : Word) (s : State) : Host.Outcome State Fault Refusal :=
  let c := s.cf1At inst
  let y := cf1Acc s.draws op0 c
  s.conclude (s.opChecks .r s.params.nCf1 inst idx)
    (((s.setCf1 inst { c with xprev := op0, yprev := y }).drew 6).respond (Resp.ofData y 0))

/-- CF1.SAMPLE_GYR (42_complementary.md R104). -/
def execCf1SampleGyr (inst idx : Byte) (op0 : Word) (s : State) : Host.Outcome State Fault Refusal :=
  let c := s.cf1At inst
  let y := cf1Gyr s.draws op0 c
  s.conclude (s.opChecks .r s.params.nCf1 inst idx)
    (((s.setCf1 inst { c with xprev := op0, yprev := y }).drew 8).respond (Resp.ofData y 0))

end Sys2Proof.Machine
end

