-- ==== Sys2Proof/Machine/Cf2.lean ====
section
/-! DEFINITION. The CF2 family: the second-order complementary filter over the open coefficient law
`Config.cf2Coeffs` (42_complementary.md R105 to R111). -/
namespace Sys2Proof.Machine

/-- The output of a direct-form-I section, `c0*x + c1*X1 + c2*X2 - d1*Y1 - d2*Y2` (42_complementary.md R105, R110), by
the nine primitives numbered from `k`. -/
def cf2Output (k : Nat) (g : Cf2Coeffs) (x : Word) (c : Cf2Inst) : Word :=
  fsub (k + 8)
    (fsub (k + 6)
      (fadd (k + 4) (fadd (k + 2) (fmul k g.c0 x) (fmul (k + 1) g.c1 c.x1)) (fmul (k + 3) g.c2 c.x2))
      (fmul (k + 5) g.d1 c.y1))
    (fmul (k + 7) g.d2 c.y2)

/-- The history shifted by the input `x` and the output `y` (42_complementary.md R105). -/
def Cf2Inst.shifted (c : Cf2Inst) (x y : Word) : Cf2Inst := { c with x2 := c.x1, x1 := x, y2 := c.y1, y1 := y }

/-- A CF2 sample of a branch, with the coefficients of the branch and the instance's TAU (42_complementary.md R105,
R106). -/
def cf2Sample (br : Branch) (inst idx : Byte) (x : Word) (s : State) : Host.Outcome State Fault Refusal :=
  let c := s.cf2At inst
  let y := cf2Output s.draws (Config.cf2Coeffs br c.tau) x c
  s.conclude (s.opChecks .r s.params.nCf2 inst idx)
    (((s.setCf2 inst (c.shifted x y)).drew 9).respond (Resp.ofData y 0))

/-- CF2.INIT: the history is cleared, TAU stays (42_complementary.md R107). -/
def execCf2Init (inst idx : Byte) (s : State) : Host.Outcome State Fault Refusal :=
  s.conclude (s.opChecks .r s.params.nCf2 inst idx)
    ((s.setCf2 inst { s.cf2At inst with x1 := 0, x2 := 0, y1 := 0, y2 := 0 }).respond (Resp.ofData 0 0))

/-- CF2.WREG: TAU takes OP0, bit-exact (42_complementary.md R108). -/
def execCf2Wreg (inst idx : Byte) (op0 : Word) (s : State) : Host.Outcome State Fault Refusal :=
  let c := s.cf2At inst
  s.conclude (s.wregChecks s.params.nCf2 inst ((cf2Reg idx).map cf2Class))
    ((s.setCf2 inst ((cf2Reg idx).elim c (c.write op0))).respond (Resp.ofData 0 0))

/-- CF2.RREG: D0 is the register that IDX names (42_complementary.md R109). -/
def execCf2Rreg (inst idx : Byte) (s : State) : Host.Outcome State Fault Refusal :=
  s.conclude (s.rregChecks s.params.nCf2 inst ((cf2Reg idx).map cf2Class))
    (s.respond (Resp.ofData ((cf2Reg idx).elim 0 (s.cf2At inst).read) 0))

/-- CF2.SAMPLE_ACC (42_complementary.md R110). -/
def execCf2SampleAcc (inst idx : Byte) (op0 : Word) (s : State) : Host.Outcome State Fault Refusal :=
  cf2Sample .acc inst idx op0 s

/-- CF2.SAMPLE_GYR (42_complementary.md R111). -/
def execCf2SampleGyr (inst idx : Byte) (op0 : Word) (s : State) : Host.Outcome State Fault Refusal :=
  cf2Sample .gyr inst idx op0 s

end Sys2Proof.Machine
end

