-- ==== Sys2Proof/Machine/Db.lean ====
section
/-! DEFINITION. The DB family: the double buffer between the two ports (40_double_buffer.md). Each command is one
atomic step (20_memory.md R51, R57), so no read is torn (R85) and no fence is needed (R56). -/
namespace Sys2Proof.Machine

/-- `SLOT[RSEL]`, the readable slot (10_state.md R25). -/
def DbInst.readable (d : DbInst) : List Word := if d.rsel then d.slot1 else d.slot0

/-- The buffer after a whole payload is published: it fills the slot that is not readable, RSEL flips to it, and NEW
is set (40_double_buffer.md R83). -/
def DbInst.publish (d : DbInst) (payload : List Word) : DbInst :=
  if d.rsel then { d with slot0 := payload, rsel := false, fresh := true }
  else { d with slot1 := payload, rsel := true, fresh := true }

/-- DB.INIT: both slots, RSEL and NEW are cleared (40_double_buffer.md R80). -/
def execDbInit (inst idx : Byte) (s : State) : Host.Outcome State Fault Refusal :=
  s.conclude (s.opChecks .r s.params.nDb inst idx)
    ((s.setDb inst (DbInst.zero s.params.dbSlotWords)).respond (Resp.ofData 0 0))

/-- DB.RREG: D0 is CTRL; NEW is not cleared. IDX must be the CTRL index 0 (40_double_buffer.md R81). -/
def execDbRreg (inst idx : Byte) (s : State) : Host.Outcome State Fault Refusal :=
  s.conclude (s.opChecks .r s.params.nDb inst idx) (s.respond (Resp.ofData (ctrlWord (s.dbAt inst)) 0))

/-- DB.READ: the words of the readable slot, the old NEW and RSEL; NEW is cleared (40_double_buffer.md R82). -/
def execDbRead (inst idx : Byte) (s : State) : Host.Outcome State Fault Refusal :=
  let d := s.dbAt inst
  s.conclude (s.opChecks .r s.params.nDb inst idx)
    ((s.setDb inst { d with fresh := false }).respond
      { flags := flagsWord false 0 d.fresh d.rsel
        d0 := d.readable.getD 0 0
        d1 := if s.params.dbSlotWords = 2 then d.readable.getD 1 0 else 0 })

/-- DB.WRITE, on the W port only: the payload is the first `DB_SLOT_WORDS` of the two operand words
(40_double_buffer.md R83). -/
def execDbWrite (inst idx : Byte) (op0 op1 : Word) (s : State) : Host.Outcome State Fault Refusal :=
  s.conclude (s.opChecks .w s.params.nDb inst idx)
    ((s.setDb inst ((s.dbAt inst).publish ([op0, op1].take s.params.dbSlotWords))).respond (Resp.ofData 0 0))

end Sys2Proof.Machine
end

