-- ==== Sys2Proof/Machine/Pidd.lean ====
section
/-! DEFINITION. The PIDD family: the PID controller in difference-equation form (43_pid.md R115 to R118). It has no
saturation (R126). -/
namespace Sys2Proof.Machine

/-- The controller constructed: K1, K2 and K3 derived from the gains, the history cleared (43_pid.md R115), by the four
primitives numbered from `k`. -/
def PiddInst.constructed (k : Nat) (c : PiddInst) : PiddInst :=
  { c with
    k1 := fadd (k + 1) (fadd k c.kp c.ki) c.kd
    k2 := fsub (k + 3) (fneg c.kp) (fmul (k + 2) fTwo c.kd)
    k3 := c.kd
    e1 := 0
    e2 := 0
    uprev := 0 }

/-- The output `u(n-1) + K1*e(n) + K2*e(n-1) + K3*e(n-2)` (43_pid.md R118), by the six primitives numbered from `k`. The
K2 term is added, with the K2 of R115 (90_conflicts.md C2). -/
def piddOutput (k : Nat) (e : Word) (c : PiddInst) : Word :=
  fadd (k + 5) (fadd (k + 3) (fadd (k + 1) c.uprev (fmul k c.k1 e)) (fmul (k + 2) c.k2 c.e1)) (fmul (k + 4) c.k3 c.e2)

/-- PIDD.INIT (43_pid.md R115). -/
def execPiddInit (inst idx : Byte) (s : State) : Host.Outcome State Fault Refusal :=
  s.conclude (s.opChecks .r s.params.nPidd inst idx)
    (((s.setPidd inst ((s.piddAt inst).constructed s.draws)).drew 4).respond (Resp.ofData 0 0))

/-- PIDD.WREG: KP, KI or KD takes OP0, bit-exact; K1 to K3 keep their values (43_pid.md R116). -/
def execPiddWreg (inst idx : Byte) (op0 : Word) (s : State) : Host.Outcome State Fault Refusal :=
  let c := s.piddAt inst
  s.conclude (s.wregChecks s.params.nPidd inst ((piddReg idx).map piddClass))
    ((s.setPidd inst ((piddReg idx).elim c (c.write op0))).respond (Resp.ofData 0 0))

/-- PIDD.RREG: D0 is the register that IDX names (43_pid.md R117). -/
def execPiddRreg (inst idx : Byte) (s : State) : Host.Outcome State Fault Refusal :=
  s.conclude (s.rregChecks s.params.nPidd inst ((piddReg idx).map piddClass))
    (s.respond (Resp.ofData ((piddReg idx).elim 0 (s.piddAt inst).read) 0))

/-- PIDD.CALC (43_pid.md R118). -/
def execPiddCalc (inst idx : Byte) (op0 : Word) (s : State) : Host.Outcome State Fault Refusal :=
  let c := s.piddAt inst
  let u := piddOutput s.draws op0 c
  s.conclude (s.opChecks .r s.params.nPidd inst idx)
    (((s.setPidd inst { c with e2 := c.e1, e1 := op0, uprev := u }).drew 6).respond (Resp.ofData u 0))

end Sys2Proof.Machine
end

