-- ==== Sys2Proof/Machine/Pidt.lean ====
section
/-! DEFINITION. The PIDT family: the PID controller in explicit-timestep form, with integrator saturation
(43_pid.md R119 to R124). -/
namespace Sys2Proof.Machine

/-- The integral after a call: `e*dt` accumulated, then clamped to SAT (43_pid.md R122, R123), by the two primitives
numbered from `k`. -/
def pidtIntegral (k : Nat) (e dt : Word) (c : PidtInst) : Word :=
  clamp (fadd (k + 1) c.integ (fmul k e dt)) c.sat

/-- The output `Kp*e + Ki*integral + Kd*(e - e_prev)/dt`, with the integral `i` of this call (43_pid.md R122), by the
seven primitives numbered from `k`. -/
def pidtOutput (k : Nat) (e dt i : Word) (c : PidtInst) : Word :=
  let d := fdiv (k + 1) (fsub k e c.eprev) dt
  fadd (k + 6) (fadd (k + 4) (fmul (k + 2) c.kp e) (fmul (k + 3) c.ki i)) (fmul (k + 5) c.kd d)

/-- PIDT.INIT: INTEG and EPREV are cleared, the gains and SAT stay (43_pid.md R119). -/
def execPidtInit (inst idx : Byte) (s : State) : Host.Outcome State Fault Refusal :=
  s.conclude (s.opChecks .r s.params.nPidt inst idx)
    ((s.setPidt inst { s.pidtAt inst with integ := 0, eprev := 0 }).respond (Resp.ofData 0 0))

/-- PIDT.WREG: KP, KI, KD or SAT takes OP0, bit-exact (43_pid.md R120). -/
def execPidtWreg (inst idx : Byte) (op0 : Word) (s : State) : Host.Outcome State Fault Refusal :=
  let c := s.pidtAt inst
  s.conclude (s.wregChecks s.params.nPidt inst ((pidtReg idx).map pidtClass))
    ((s.setPidt inst ((pidtReg idx).elim c (c.write op0))).respond (Resp.ofData 0 0))

/-- PIDT.RREG: D0 is the register that IDX names (43_pid.md R121). -/
def execPidtRreg (inst idx : Byte) (s : State) : Host.Outcome State Fault Refusal :=
  s.conclude (s.rregChecks s.params.nPidt inst ((pidtReg idx).map pidtClass))
    (s.respond (Resp.ofData ((pidtReg idx).elim 0 (s.pidtAt inst).read) 0))

/-- PIDT.CALC: accumulate, clamp, derive, and answer with the new integral; EPREV becomes `e` (43_pid.md R122). -/
def execPidtCalc (inst idx : Byte) (op0 op1 : Word) (s : State) : Host.Outcome State Fault Refusal :=
  let c := s.pidtAt inst
  let i := pidtIntegral s.draws op0 op1 c
  let u := pidtOutput (s.draws + 2) op0 op1 i c
  s.conclude (s.opChecks .r s.params.nPidt inst idx)
    (((s.setPidt inst { c with integ := i, eprev := op0 }).drew 9).respond (Resp.ofData u 0))

end Sys2Proof.Machine
end

