-- ==== Sys2Proof/Machine/Sys.lean ====
section
/-! DEFINITION. The SYS family (44_system.md). SYS has exactly one instance, so `INST` must be 0 (30_encoding.md R68). -/
namespace Sys2Proof.Machine

/-- SYS.NOP: legal on both ports, no state changes (44_system.md R130). -/
def execSysNop (inst idx : Byte) (s : State) : Host.Outcome State Fault Refusal :=
  s.conclude [instCheck 1 inst, idxCheck idx] (s.respond (Resp.ofData 0 0))

/-- SYS.STAT_R: D0 is STATUS, which is not cleared (44_system.md R131). -/
def execSysStatR (inst idx : Byte) (s : State) : Host.Outcome State Fault Refusal :=
  s.conclude (s.opChecks .r 1 inst idx) (s.respond (Resp.ofData s.status 0))

/-- SYS.STAT_C: every field of STATUS is cleared (44_system.md R132). -/
def execSysStatC (inst idx : Byte) (s : State) : Host.Outcome State Fault Refusal :=
  s.conclude (s.opChecks .r 1 inst idx) (({ s with status := 0 }).respond (Resp.ofData 0 0))

/-- SYS.PARAM_R: D0 is the parameter of index IDX, 0 to 8 (44_system.md R133). -/
def execSysParamR (inst idx : Byte) (s : State) : Host.Outcome State Fault Refusal :=
  s.conclude [s.portCheck .r, instCheck 1 inst, ((paramValue s.params idx).isNone, .badIdx)]
    (s.respond (Resp.ofData (BitVec.ofNat 32 ((paramValue s.params idx).getD 0)) 0))

end Sys2Proof.Machine
end

