-- ==== Sys2Proof/Machine/Dispatch.lean ====
section
/-! DEFINITION. Dispatch: one arm per command of the opcode table (30_encoding.md R65), each one call of its meaning. -/
namespace Sys2Proof.Machine

/-- The effect of a command on the port in service (30_encoding.md R65, R74). -/
def exec (i : Instr) (s : State) : Host.Outcome State Fault Refusal :=
  match i with
  | .sysNop inst idx => Sys2Proof.Machine.execSysNop inst idx s
  | .sysStatR inst idx => Sys2Proof.Machine.execSysStatR inst idx s
  | .sysStatC inst idx => Sys2Proof.Machine.execSysStatC inst idx s
  | .sysParamR inst idx => Sys2Proof.Machine.execSysParamR inst idx s
  | .dbInit inst idx => Sys2Proof.Machine.execDbInit inst idx s
  | .dbRreg inst idx => Sys2Proof.Machine.execDbRreg inst idx s
  | .dbRead inst idx => Sys2Proof.Machine.execDbRead inst idx s
  | .dbWrite inst idx op0 op1 => Sys2Proof.Machine.execDbWrite inst idx op0 op1 s
  | .biqInit inst idx => Sys2Proof.Machine.execBiqInit inst idx s
  | .biqWreg inst idx op0 => Sys2Proof.Machine.execBiqWreg inst idx op0 s
  | .biqRreg inst idx => Sys2Proof.Machine.execBiqRreg inst idx s
  | .biqSample inst idx op0 => Sys2Proof.Machine.execBiqSample inst idx op0 s
  | .cf1Init inst idx => Sys2Proof.Machine.execCf1Init inst idx s
  | .cf1Wreg inst idx op0 => Sys2Proof.Machine.execCf1Wreg inst idx op0 s
  | .cf1Rreg inst idx => Sys2Proof.Machine.execCf1Rreg inst idx s
  | .cf1SampleAcc inst idx op0 => Sys2Proof.Machine.execCf1SampleAcc inst idx op0 s
  | .cf1SampleGyr inst idx op0 => Sys2Proof.Machine.execCf1SampleGyr inst idx op0 s
  | .cf2Init inst idx => Sys2Proof.Machine.execCf2Init inst idx s
  | .cf2Wreg inst idx op0 => Sys2Proof.Machine.execCf2Wreg inst idx op0 s
  | .cf2Rreg inst idx => Sys2Proof.Machine.execCf2Rreg inst idx s
  | .cf2SampleAcc inst idx op0 => Sys2Proof.Machine.execCf2SampleAcc inst idx op0 s
  | .cf2SampleGyr inst idx op0 => Sys2Proof.Machine.execCf2SampleGyr inst idx op0 s
  | .piddInit inst idx => Sys2Proof.Machine.execPiddInit inst idx s
  | .piddWreg inst idx op0 => Sys2Proof.Machine.execPiddWreg inst idx op0 s
  | .piddRreg inst idx => Sys2Proof.Machine.execPiddRreg inst idx s
  | .piddCalc inst idx op0 => Sys2Proof.Machine.execPiddCalc inst idx op0 s
  | .pidtInit inst idx => Sys2Proof.Machine.execPidtInit inst idx s
  | .pidtWreg inst idx op0 => Sys2Proof.Machine.execPidtWreg inst idx op0 s
  | .pidtRreg inst idx => Sys2Proof.Machine.execPidtRreg inst idx s
  | .pidtCalc inst idx op0 op1 => Sys2Proof.Machine.execPidtCalc inst idx op0 op1 s

end Sys2Proof.Machine
end

