-- ==== Sys2Proof/Machine/Step.lean ====
section
/-! DEFINITION. One step of the block: the next event takes effect as one atomic step (00_scope.md R5, 20_memory.md
R51, R53). -/
namespace Sys2Proof.Machine

/-- One step. A command is served on its port: a word that fails checks 1 to 3 raises IllegalCommand
(60_exceptions.md R139), any other runs its command. A reset takes effect between commands
(70_reset_and_hazards.md R155). With no event to take, the block holds its state: it takes no step of its own
(10_state.md R20, 60_exceptions.md R150; log 3). -/
def step (s : State) : Host.Outcome State Fault Refusal :=
  match s.nextEvent with
  | none => .next s
  | some (.reset rDiscarded wDiscarded, s') => .next (s'.blockReset rDiscarded wDiscarded)
  | some (.command p q, s') =>
    match decode q with
    | .error c => .next ((s'.serve p).raiseIllegal c)
    | .ok i => exec i (s'.serve p)

/-- `s` with the request of the `nbits` low bits of `w` as the next event, on the port on which the opcode table
allows its command: the very next step runs it (log 2). -/
def State.withFetchWord (s : State) (nbits w : Nat) : State :=
  s.offer (.command (Request.ofNat nbits w).tablePort (Request.ofNat nbits w))

end Sys2Proof.Machine
end

