-- ==== Sys2Proof/Machine/Asm.lean ====
section
/-! DEFINITION. The assembler syntax (30_encoding.md R75, 00_scope.md R14) and the pseudo-instructions
(30_encoding.md R76): text lines and constructor calls as the commands that the agents issue. The block itself never
reads them. A line is a list of characters; a blank is the space character (log 15). -/
namespace Sys2Proof.Machine

/-! ### Words of a line -/

/-- The line without the spaces at its two ends. -/
def trimSpaces (cs : List Char) : List Char :=
  ((cs.dropWhile (· == ' ')).reverse.dropWhile (· == ' ')).reverse

/-- The value of a digit in a base up to 16. -/
def digitValue (base : Nat) (c : Char) : Option Nat :=
  let n := c.toNat
  let v :=
    if 48 ≤ n ∧ n ≤ 57 then n - 48
    else if 97 ≤ n ∧ n ≤ 102 then n - 87
    else if 65 ≤ n ∧ n ≤ 70 then n - 55
    else base
  if v < base then some v else none

/-- The number that the digits spell in a base; none for no digits or a character that is no digit. -/
def digitsValue (base : Nat) (cs : List Char) : Option Nat :=
  if cs.isEmpty then none else cs.foldlM (fun a c => (digitValue base c).map (base * a + ·)) 0

/-- An unsigned integer, decimal or `0x` hexadecimal (30_encoding.md R75). -/
def asmInteger : List Char → Option Nat
  | '0' :: 'x' :: cs => digitsValue 16 cs
  | cs => digitsValue 10 cs

/-- An integer 0..255 as a field of the command word (30_encoding.md R75). -/
def asmByte (cs : List Char) : Option Byte :=
  (asmInteger cs).bind fun n => if n < 256 then some (BitVec.ofNat 8 n) else none

/-- The binary32 value nearest a decimal `[-]digits[.digits]` (30_encoding.md R75). -/
def asmDecimal (cs : List Char) : Option Word :=
  let neg := cs.head? == some '-'
  let body := if neg then cs.tail else cs
  let whole := body.takeWhile (· != '.')
  let point := body.dropWhile (· != '.')
  let frac := point.tail
  if !point.isEmpty && frac.isEmpty then none
  else
    (digitsValue 10 whole).bind fun _ =>
      (digitsValue 10 (whole ++ frac)).map fun n => binary32Of neg n (10 ^ frac.length)

/-- An operand: a hexadecimal pattern `0x...`, `f:` and a decimal, or `u:` and a decimal integer (30_encoding.md
R75). -/
def asmOperand : List Char → Option Word
  | '0' :: 'x' :: cs => (digitsValue 16 cs).bind fun n => if n < 2 ^ 32 then some (BitVec.ofNat 32 n) else none
  | 'f' :: ':' :: cs => asmDecimal cs
  | 'u' :: ':' :: cs => (digitsValue 10 cs).bind fun n => if n < 2 ^ 32 then some (BitVec.ofNat 32 n) else none
  | _ => none

/-! ### Names -/

/-- The mnemonics of 30_encoding.md R65 in lower case, with their (FAM, OP). -/
def asmMnemonics : List (String × BitVec 4 × BitVec 4) :=
  [("sys.nop", 0, 0), ("sys.stat_r", 0, 1), ("sys.stat_c", 0, 2), ("sys.param_r", 0, 3),
   ("db.init", 1, 0), ("db.rreg", 1, 2), ("db.read", 1, 3), ("db.write", 1, 4),
   ("biq.init", 2, 0), ("biq.wreg", 2, 1), ("biq.rreg", 2, 2), ("biq.sample", 2, 3),
   ("cf1.init", 3, 0), ("cf1.wreg", 3, 1), ("cf1.rreg", 3, 2), ("cf1.sample_acc", 3, 3), ("cf1.sample_gyr", 3, 4),
   ("cf2.init", 4, 0), ("cf2.wreg", 4, 1), ("cf2.rreg", 4, 2), ("cf2.sample_acc", 4, 3), ("cf2.sample_gyr", 4, 4),
   ("pidd.init", 5, 0), ("pidd.wreg", 5, 1), ("pidd.rreg", 5, 2), ("pidd.calc", 5, 3),
   ("pidt.init", 6, 0), ("pidt.wreg", 6, 1), ("pidt.rreg", 6, 2), ("pidt.calc", 6, 3)]

/-- The symbolic register names of a family with their indices, but for those of the BIQ sections (10_state.md R25 to
R30). -/
def asmRegisters (fam : BitVec 4) : List (String × Byte) :=
  match fam.toNat with
  | 1 => [("CTRL", 0)]
  | 2 => [("NSEC", 0), ("GAIN", 1)]
  | 3 => [("TAU", 0), ("XPREV", 1), ("YPREV", 2)]
  | 4 => [("TAU", 0), ("X1", 1), ("X2", 2), ("Y1", 3), ("Y2", 4)]
  | 5 => [("KP", 0), ("KI", 1), ("KD", 2), ("K1", 3), ("K2", 4), ("K3", 5), ("E1", 6), ("E2", 7), ("UPREV", 8)]
  | 6 => [("KP", 0), ("KI", 1), ("KD", 2), ("SAT", 3), ("INTEG", 4), ("EPREV", 5)]
  | _ => []

/-- The names of a section's registers with their offsets (10_state.md R26). -/
def asmSectionRegisters : List (String × Nat) :=
  [("B0", 0), ("B1", 1), ("B2", 2), ("A1", 3), ("A2", 4), ("S0", 5), ("S1", 6)]

/-- The row of a table that a name selects. -/
def lookupName {α : Type} (name : List Char) (table : List (String × α)) : Option α :=
  (table.find? (fun row => row.1.toList == name)).map Prod.snd

/-- The index that `SEC<s>.<name>` names, `0x08+8s+k` (10_state.md R26). -/
def asmSectionIndex : List Char → Option Byte
  | 'S' :: 'E' :: 'C' :: cs =>
    (digitsValue 10 (cs.takeWhile (· != '.'))).bind fun s =>
      (lookupName (cs.dropWhile (· != '.')).tail asmSectionRegisters).bind fun k =>
        if s < 31 then some (BitVec.ofNat 8 (8 + 8 * s + k)) else none
  | _ => none

/-- The `<idx>` of a line: a symbolic name of the family or an integer (30_encoding.md R75). -/
def asmIndex (fam : BitVec 4) (cs : List Char) : Option Byte :=
  match lookupName cs (asmRegisters fam) with
  | some i => some i
  | none =>
    match if fam == 2 then asmSectionIndex cs else none with
    | some i => some i
    | none => asmByte cs

/-! ### Lines -/

/-- `<inst>` is omitted for SYS (30_encoding.md R75). -/
def asmTakesInst (fam : BitVec 4) : Bool := fam != 0

/-- `<idx>` is present exactly for WREG, RREG and PARAM_R (30_encoding.md R75). -/
def asmTakesIdx (fam op : BitVec 4) : Bool := if fam == 0 then op == 3 else op == 1 || op == 2

/-- The first argument, if the command takes it: its value (0 where it takes none) and the arguments after it. -/
def takeArg (takes : Bool) (parse : List Char → Option Byte) (args : List (List Char)) :
    Option (Byte × List (List Char)) :=
  if takes then
    match args with
    | [] => none
    | a :: rest => (parse a).map (·, rest)
  else some (0, args)

/-- The operand words of a line; an omitted one is 0 (30_encoding.md R75). -/
def asmOperands : List (List Char) → Option (Word × Word)
  | [] => some (0, 0)
  | [a] => (asmOperand a).map (·, 0)
  | [a, b] => (asmOperand a).bind fun x => (asmOperand b).map (x, ·)
  | _ => none

/-- The command that a line's port prefix, mnemonic and arguments assemble to; no prefix marks the R port. Refused for
a mnemonic that is not in 30_encoding.md R65, and where the prefix contradicts R70. A line without a prefix has none
that could contradict it, so `db.write` without one assembles to a command on the R port, which the block answers with
WRONG_PORT (95_test_vectors.md P3, line 10). DEDUCED (log 15). -/
def asmCommand (portPrefix : Option Port) (name : List Char) (args : List (List Char)) : Option Event :=
  (lookupName (name.map Char.toLower) asmMnemonics).bind fun (fam, op) =>
    if portPrefix.all (fun p => allowedOn p fam op) then
      (takeArg (asmTakesInst fam) asmByte args).bind fun (inst, args) =>
        (takeArg (asmTakesIdx fam op) (asmIndex fam) args).bind fun (idx, args) =>
          (asmOperands args).map fun (op0, op1) =>
            Event.command (portPrefix.getD .r) ⟨cmdWord fam op inst idx, op0, op1⟩
    else none

/-- One line, `[R:|W:] <fam>.<op> <inst>[, <idx>][, <op0>[, <op1>]]` with a comment after `;` (30_encoding.md R75). -/
def assemble (line : List Char) : Option Event :=
  let body := trimSpaces (line.takeWhile (· != ';'))
  let (portPrefix, body) :=
    match body with
    | 'W' :: ':' :: rest => (some Port.w, trimSpaces rest)
    | 'R' :: ':' :: rest => (some Port.r, trimSpaces rest)
    | _ => (none, body)
  let args := trimSpaces (body.dropWhile (· != ' '))
  asmCommand portPrefix (body.takeWhile (· != ' ')) (if args.isEmpty then [] else (args.splitOn ',').map trimSpaces)

/-! ### Pseudo-instructions (30_encoding.md R76) -/

/-- A command as an event on a port. -/
def issue (p : Port) (i : Instr) : Event := .command p (encode i)

/-- `nop`. -/
def pseudoNop : List Event := [issue .r (.sysNop 0 0)]

/-- `biq.section i, s, b0, b1, b2, a1, a2`. R76 gives `s` no range; from 31 on `SEC<s>` names no register of any block
(`BIQ_MAX_SEC ≤ 31`, 10_state.md R26), and the line is refused, as `assemble` refuses the lines it stands for.
DESIGN CHOICE (log 19). Below 31 the index `8 + 8*s + k` does not wrap. -/
def pseudoBiqSection (i s : Byte) (b0 b1 b2 a1 a2 : Word) : Option (List Event) :=
  if s.toNat < 31 then
    some
      [issue .r (.biqWreg i (8 + 8 * s) b0), issue .r (.biqWreg i (8 + 8 * s + 1) b1),
       issue .r (.biqWreg i (8 + 8 * s + 2) b2), issue .r (.biqWreg i (8 + 8 * s + 3) a1),
       issue .r (.biqWreg i (8 + 8 * s + 4) a2)]
  else none

/-- `biq.construct i, n, g`. -/
def pseudoBiqConstruct (i : Byte) (n g : Word) : List Event :=
  [issue .r (.biqWreg i 0 n), issue .r (.biqWreg i 1 g), issue .r (.biqInit i 0)]

/-- `cf1.construct i, tau`. -/
def pseudoCf1Construct (i : Byte) (tau : Word) : List Event :=
  [issue .r (.cf1Wreg i 0 tau), issue .r (.cf1Init i 0)]

/-- `cf2.construct i, tau`. -/
def pseudoCf2Construct (i : Byte) (tau : Word) : List Event :=
  [issue .r (.cf2Wreg i 0 tau), issue .r (.cf2Init i 0)]

/-- `pidd.construct i, kp, ki, kd`. -/
def pseudoPiddConstruct (i : Byte) (kp ki kd : Word) : List Event :=
  [issue .r (.piddWreg i 0 kp), issue .r (.piddWreg i 1 ki), issue .r (.piddWreg i 2 kd), issue .r (.piddInit i 0)]

/-- `pidt.construct i, kp, ki, kd, sat`. -/
def pseudoPidtConstruct (i : Byte) (kp ki kd sat : Word) : List Event :=
  [issue .r (.pidtWreg i 0 kp), issue .r (.pidtWreg i 1 ki), issue .r (.pidtWreg i 2 kd), issue .r (.pidtWreg i 3 sat),
   issue .r (.pidtInit i 0)]

/-- `db.write_done i, w0, w1`, on the W port. -/
def pseudoWriteDone (i : Byte) (w0 w1 : Word) : List Event := [issue .w (.dbWrite i 0 w0 w1)]

/-- `db.try_read i`. -/
def pseudoTryRead (i : Byte) : List Event := [issue .r (.dbRead i 0)]

/-- How `db.try_read` reads its response: the two words where NEW is 1, none otherwise (30_encoding.md R76). -/
def tryReadResult (r : Resp) : Option (Word × Word) := if r.fresh then some (r.d0, r.d1) else none

end Sys2Proof.Machine
end

