-- ==== Sys2Proof/Safety.lean ====
section
/-! DEFINITION. What claims about the block are stated in: the invariant of the states that a block can be in, the
legality of a command as 60_exceptions.md R139 writes it (one function over the command word, written from that rule
and the register maps and not from the meanings), and which events touch a double buffer. -/
namespace Sys2Proof.Machine

/-! ### The invariant -/

/-- STATUS as 10_state.md R33 has it: the unlisted bits are 0, and each port's cause field holds a code of
60_exceptions.md R138 where its sticky bit is set, and 0 where it is not. -/
def statusWf (st : Word) : Bool :=
  (st &&& 0xFFFF00FC#32) == 0 &&
  (if statusIll .r st then decide (1 ≤ (statusCause .r st).toNat) && decide ((statusCause .r st).toNat ≤ 8)
    else statusCause .r st == 0) &&
  (if statusIll .w st then decide (1 ≤ (statusCause .w st).toNat) && decide ((statusCause .w st).toNat ≤ 8)
    else statusCause .w st == 0)

/-- The states that a block can be in: legal parameters (00_scope.md R6), as many instances, sections and slot words as
the parameters say (10_state.md R25 to R30), every NSEC in its range (10_state.md R24, R26), and a STATUS of R33. -/
def State.wf (s : State) : Bool :=
  s.params.legal &&
  s.db.length == s.params.nDb && s.biq.length == s.params.nBiq && s.cf1.length == s.params.nCf1 &&
  s.cf2.length == s.params.nCf2 && s.pidd.length == s.params.nPidd && s.pidt.length == s.params.nPidt &&
  s.db.all (fun d => d.slot0.length == s.params.dbSlotWords && d.slot1.length == s.params.dbSlotWords) &&
  s.biq.all (fun b => b.secs.length == s.params.biqMaxSec && decide (b.nsec.toNat ≤ s.params.biqMaxSec)) &&
  statusWf s.status

/-! ### Legality (60_exceptions.md R139) -/

/-- The instance count of a family; SYS has one (30_encoding.md R64). -/
def familyCount (m : Params) (fam : Nat) : Nat :=
  match fam with
  | 0 => 1
  | 1 => m.nDb
  | 2 => m.nBiq
  | 3 => m.nCf1
  | 4 => m.nCf2
  | 5 => m.nPidd
  | 6 => m.nPidt
  | _ => 0

/-- The (FAM, OP) pairs of 30_encoding.md R65, by the list of pairs that R65 names as not listed. -/
def opListed (fam op : Nat) : Bool :=
  match fam with
  | 0 => decide (op < 4)
  | 1 => decide (op < 5) && op != 1
  | 2 => decide (op < 4)
  | 3 => decide (op < 5)
  | 4 => decide (op < 5)
  | 5 => decide (op < 4)
  | 6 => decide (op < 4)
  | _ => false

/-- Whether the map of a family lists an index (10_state.md R25 to R30). -/
def mapLists (m : Params) (fam idx : Nat) : Bool :=
  match fam with
  | 1 => idx == 0
  | 2 => decide (idx ≤ 1) || (decide (8 ≤ idx) && decide ((idx - 8) / 8 < m.biqMaxSec) && (idx - 8) % 8 != 7)
  | 3 => decide (idx ≤ 2)
  | 4 => decide (idx ≤ 4)
  | 5 => decide (idx ≤ 8)
  | 6 => decide (idx ≤ 5)
  | _ => false

/-- Whether a listed index of a family is RW (10_state.md R24 to R30). -/
def mapWritable (fam idx : Nat) : Bool :=
  match fam with
  | 2 => decide (idx ≤ 1) || decide ((idx - 8) % 8 < 5)
  | 3 => idx == 0
  | 4 => idx == 0
  | 5 => decide (idx ≤ 2)
  | 6 => decide (idx ≤ 3)
  | _ => false

/-- The index set of a command (30_encoding.md R67; for a WREG every index that the map lists, 60_exceptions.md
R139). -/
def indexSet (m : Params) (fam op idx : Nat) : Bool :=
  if fam = 0 then (if op = 3 then decide (idx ≤ 8) else idx == 0)
  else if op = 1 || op = 2 then mapLists m fam idx
  else idx == 0

/-- The cause that 60_exceptions.md R139 gives a request on a port of a block with the parameters `m`; none where it
passes all six checks, which is what legal means (30_encoding.md R71). -/
def illegalCause (m : Params) (p : Port) (q : Request) : Option Cause :=
  let fam := (famOf q.cmd).toNat
  let op := (opOf q.cmd).toNat
  let inst := (instOf q.cmd).toNat
  let idx := (idxOf q.cmd).toNat
  if rsvOf q.cmd ≠ 0 then some .rsvdBits
  else if 7 ≤ fam then some .rsvdFam
  else if !opListed fam op then some .badOp
  else if !(match p with
      | .r => !(fam == 1 && op == 4)
      | .w => (fam == 1 && op == 4) || (fam == 0 && op == 0)) then some .wrongPort
  else if (fam = 0 ∧ inst ≠ 0) ∨ (fam ≠ 0 ∧ familyCount m fam ≤ inst) then some .badInst
  else if !indexSet m fam op idx then some .badIdx
  else if fam ≠ 0 ∧ op = 1 ∧ !mapWritable fam idx then some .roReg
  else if fam = 2 ∧ op = 1 ∧ idx = 0 ∧ m.biqMaxSec < q.op0.toNat then some .badValue
  else none

/-- The response of an illegal command: FLAGS = {CAUSE, ILL=1}, CAUSE in bits 7:4, zero data (30_encoding.md R63,
60_exceptions.md R140). -/
def illegalResp (c : Cause) : Resp := { flags := 0#24 ++ causeCode c ++ 0x1#4, d0 := 0, d1 := 0 }

/-- The state after IllegalCommand on the port in service: the response and `record(p, cause)`, and nothing else
(60_exceptions.md R140). -/
def afterIllegal (s : State) (c : Cause) : State :=
  { s with
    status := recordCause s.port c s.status
    rResp := if s.port = .r then illegalResp c else s.rResp
    wResp := if s.port = .w then illegalResp c else s.wResp }

/-- The state after an event has had its whole effect: a reset sets every register (70_reset_and_hazards.md R155), an
illegal command has the effect of IllegalCommand (60_exceptions.md R140), and a legal one the effect of its rule, on its
port (30_encoding.md R74). The last case does not arise: every command gives a next state (60_exceptions.md R137). -/
def afterEvent (s : State) : Event → State
  | .reset rDiscarded wDiscarded => s.blockReset rDiscarded wDiscarded
  | .command p q =>
    match illegalCause s.params p q, decode q with
    | some c, _ => afterIllegal { s with port := p } c
    | none, .error _ => s
    | none, .ok i =>
      match exec i { s with port := p } with
      | .next t => t
      | _ => s

/-- On every state and port that make the command illegal, it has the effect of IllegalCommand with the cause of
60_exceptions.md R139 and no other. -/
def refusesIllegal (i : Instr) : Prop :=
  ∀ (s : State) (c : Cause), illegalCause s.params s.port (encode i) = some c → exec i s = .next (afterIllegal s c)

/-- Every command word with this FAM and OP byte, any INST and IDX, zero RSV and any operand words is this command
(30_encoding.md R61, R65). -/
def decodesAt (code : Byte) (command : Byte → Byte → Word → Word → Instr) : Prop :=
  ∀ (inst idx : Byte) (op0 op1 : Word), decode ⟨code ++ inst ++ idx ++ 0#8, op0, op1⟩ = .ok (command inst idx op0 op1)

/-! ### Instances -/

/-- The family of an instruction, by its encoding. -/
def instrFamily (i : Instr) : Nat := (famOf (encode i).cmd).toNat

/-- The instance that an instruction names, by its encoding. -/
def instrTarget (i : Instr) : Nat := (instOf (encode i).cmd).toNat

/-- Two states hold the same instance `n` of a family; for SYS, the same STATUS. -/
def sameInst (fam n : Nat) (s t : State) : Prop :=
  match fam with
  | 0 => s.status = t.status
  | 1 => s.db[n]? = t.db[n]?
  | 2 => s.biq[n]? = t.biq[n]?
  | 3 => s.cf1[n]? = t.cf1[n]?
  | 4 => s.cf2[n]? = t.cf2[n]?
  | 5 => s.pidd[n]? = t.pidd[n]?
  | 6 => s.pidt[n]? = t.pidt[n]?
  | _ => True

/-- The RW registers of instance `n` of a family (10_state.md R24 to R30). -/
def configOf (fam n : Nat) (s : State) : Option (List Word) :=
  match fam with
  | 2 => s.biq[n]?.map fun b => b.nsec :: b.gain :: b.secs.flatMap fun c => [c.b0, c.b1, c.b2, c.a1, c.a2]
  | 3 => s.cf1[n]?.map fun c => [c.tau]
  | 4 => s.cf2[n]?.map fun c => [c.tau]
  | 5 => s.pidd[n]?.map fun c => [c.kp, c.ki, c.kd]
  | 6 => s.pidt[n]?.map fun c => [c.kp, c.ki, c.kd, c.sat]
  | _ => none

/-- The RO-state and RO-derived registers of instance `n` of a family that has a WREG (10_state.md R24 to R30). -/
def historyOf (fam n : Nat) (s : State) : Option (List Word) :=
  match fam with
  | 2 => s.biq[n]?.map fun b => b.secs.flatMap fun c => [c.s0, c.s1]
  | 3 => s.cf1[n]?.map fun c => [c.xprev, c.yprev]
  | 4 => s.cf2[n]?.map fun c => [c.x1, c.x2, c.y1, c.y2]
  | 5 => s.pidd[n]?.map fun c => [c.k1, c.k2, c.k3, c.e1, c.e2, c.uprev]
  | 6 => s.pidt[n]?.map fun c => [c.integ, c.eprev]
  | _ => none

/-- The last response on a port. -/
def State.respOf (s : State) (p : Port) : Resp :=
  match p with
  | .r => s.rResp
  | .w => s.wResp

/-! ### Double-buffer traffic -/

/-- The event replaces the contents of `DB[n]`: a reset, or a legal DB.WRITE or DB.INIT of that instance. -/
def Event.replacesDb (m : Params) (n : Byte) : Event → Bool
  | .reset _ _ => true
  | .command p q =>
    illegalCause m p q == none && instOf q.cmd == n && famOf q.cmd == 1 && (opOf q.cmd == 0 || opOf q.cmd == 4)

/-- The event is a legal DB.WRITE of `DB[n]`. -/
def Event.writesDb (m : Params) (n : Byte) : Event → Bool
  | .reset _ _ => false
  | .command p q => illegalCause m p q == none && instOf q.cmd == n && famOf q.cmd == 1 && opOf q.cmd == 4

/-- The event is a legal DB.READ of `DB[n]`. -/
def Event.readsDb (m : Params) (n : Byte) : Event → Bool
  | .reset _ _ => false
  | .command p q => illegalCause m p q == none && instOf q.cmd == n && famOf q.cmd == 1 && opOf q.cmd == 3

end Sys2Proof.Machine
end

