-- ==== Sys2Proof/Certificates/Slice0/Obligations.lean ====
section
/-! DEFINITION. The statements for the provers, in the order of OBLIGATIONS.json. `F[i]` of the spec is written
`s.<family>[i.toNat]? = some c`: the block has that instance and its registers are `c`. The number a primitive is given
(`fadd k`) says only which free NaN pattern it takes should its result be a NaN (00_scope.md R12), so a statement about
a result says that it holds for some such numbers. -/

open Sys2Proof Sys2Proof.Machine

/-! ### Encoding -/

/-- Decoding the encoding of a command gives the command back, every field and used operand at every value
(30_encoding.md R61, R65, R74). -/
def Obligations.DecodeOfEncodeIsTheCommand : Prop :=
  ∀ i : Instr, decode (encode i) = .ok i

/-- A request that decodes is the encoding of its command in its command word: a word has one meaning
(30_encoding.md R61, R65, R69). -/
def Obligations.DecodedWordIsTheEncoding : Prop :=
  ∀ (q : Request) (i : Instr), decode q = .ok i → (encode i).cmd = q.cmd

/-- The assembly lines of 30_encoding.md R77 assemble to the requests that its table lists. -/
def Obligations.AssembledLinesOfR77 : Prop :=
  assemble "sys.nop".toList = some (.command .r ⟨0x00000000, 0, 0⟩) ∧
  assemble "sys.stat_r".toList = some (.command .r ⟨0x01000000, 0, 0⟩) ∧
  assemble "sys.param_r 6".toList = some (.command .r ⟨0x03000600, 0, 0⟩) ∧
  assemble "db.init 0".toList = some (.command .r ⟨0x10000000, 0, 0⟩) ∧
  assemble "db.read 2".toList = some (.command .r ⟨0x13020000, 0, 0⟩) ∧
  assemble "W: db.write 2, 0x04030201, 0x00000605".toList =
    some (.command .w ⟨0x14020000, 0x04030201, 0x00000605⟩) ∧
  assemble "biq.wreg 0, GAIN, f:2.0".toList = some (.command .r ⟨0x21000100, 0x40000000, 0⟩) ∧
  assemble "biq.wreg 0, SEC1.A2, f:0.25".toList = some (.command .r ⟨0x21001400, 0x3E800000, 0⟩) ∧
  assemble "biq.rreg 0, SEC0.S0".toList = some (.command .r ⟨0x22000D00, 0, 0⟩) ∧
  assemble "biq.sample 0, f:1.0".toList = some (.command .r ⟨0x23000000, 0x3F800000, 0⟩) ∧
  assemble "cf1.sample_gyr 1, f:1.0".toList = some (.command .r ⟨0x34010000, 0x3F800000, 0⟩) ∧
  assemble "cf2.sample_acc 0, f:4.0".toList = some (.command .r ⟨0x43000000, 0x40800000, 0⟩) ∧
  assemble "pidd.init 1".toList = some (.command .r ⟨0x50010000, 0, 0⟩) ∧
  assemble "pidt.calc 0, f:0.5, f:1.0".toList = some (.command .r ⟨0x63000000, 0x3F000000, 0x3F800000⟩)

/-- Words written out from 30_encoding.md R61 and R65, one per family, decode to their commands, and words that R65,
R64 and R69 exclude are refused by cause. -/
def Obligations.DecodedWordsOfEveryFamily : Prop :=
  decode ⟨0x03000600, 0, 0⟩ = .ok (.sysParamR 0 6) ∧
  decode ⟨0x14020000, 0x04030201, 0x00000605⟩ = .ok (.dbWrite 2 0 0x04030201 0x00000605) ∧
  decode ⟨0x21001400, 0x3E800000, 7⟩ = .ok (.biqWreg 0 0x14 0x3E800000) ∧
  decode ⟨0x34010000, 0x3F800000, 0⟩ = .ok (.cf1SampleGyr 1 0 0x3F800000) ∧
  decode ⟨0x42FF0400, 0, 0⟩ = .ok (.cf2Rreg 0xFF 4) ∧
  decode ⟨0x53000000, 0xBF000000, 0⟩ = .ok (.piddCalc 0 0 0xBF000000) ∧
  decode ⟨0x63000000, 0x3F000000, 0x3F800000⟩ = .ok (.pidtCalc 0 0 0x3F000000 0x3F800000) ∧
  decode ⟨0x70000001, 0, 0⟩ = .error .rsvdBits ∧
  decode ⟨0x70000000, 0, 0⟩ = .error .rsvdFam ∧
  decode ⟨0x11000000, 0, 0⟩ = .error .badOp

/-! ### Steps and events -/

/-- The step whose next event is a command that decodes to `i` is `i` on that port, with the event taken off
(30_encoding.md R74; that the events and the port in service stand in the state is the model's choice, log 2, 4). -/
def Obligations.StepRunsTheDecodedCommand : Prop :=
  ∀ (s : State) (p : Port) (q : Request) (rest : List Event) (i : Instr),
    s.inputs = .command p q :: rest → decode q = .ok i →
      step s = exec i { s with inputs := rest, port := p }

/-- A command that fails a check of 60_exceptions.md R139 has, with the cause of the first check that fails, exactly the
effect of R140, on every port, word and state. -/
def Obligations.IllegalCommandsByTheCheckOrder : Prop :=
  ∀ (s : State) (p : Port) (q : Request) (rest : List Event) (c : Cause),
    s.inputs = .command p q :: rest → illegalCause s.params p q = some c →
      step s = .next (afterIllegal { s with inputs := rest, port := p } c)

/-- A legal command decodes, is answered with ILL = 0 and CAUSE = 0, and the block goes on (60_exceptions.md R138,
30_encoding.md R63, R71). -/
def Obligations.LegalCommandsReportNoCause : Prop :=
  ∀ (s : State) (p : Port) (q : Request) (rest : List Event),
    s.inputs = .command p q :: rest → illegalCause s.params p q = none →
      ∃ (i : Instr) (t : State), decode q = .ok i ∧ step s = .next t ∧
        (t.respOf p).ill = false ∧ (t.respOf p).cause = 0

/-- STATUS after a command (60_exceptions.md R141): an illegal command writes its port's sticky bit and cause field
where the sticky bit was 0 and changes nothing where it was 1; a legal one changes nothing, except SYS.STAT_C. The
causes have the numbers of R138, in STATUS as in the response. -/
def Obligations.StatusRecordsTheFirstCause : Prop :=
  let code : Cause → BitVec 4
    | .rsvdBits => 1
    | .rsvdFam => 2
    | .badOp => 3
    | .wrongPort => 4
    | .badInst => 5
    | .badIdx => 6
    | .roReg => 7
    | .badValue => 8
  ∀ (s : State) (p : Port) (q : Request) (rest : List Event),
    s.inputs = .command p q :: rest →
      ∃ t : State, step s = .next t ∧
        match illegalCause s.params p q with
        | none =>
          if famOf q.cmd = 0 ∧ opOf q.cmd = 2 then t.status = 0 else t.status = s.status
        | some c =>
          t.respOf p = { flags := 0#24 ++ code c ++ 1#4, d0 := 0, d1 := 0 } ∧
          match p with
          | .r =>
            if s.status.getLsbD 0 then t.status = s.status
            else t.status.getLsbD 0 = true ∧ t.status.extractLsb' 8 4 = code c ∧
              ∀ k, k ≠ 0 → ¬ (8 ≤ k ∧ k < 12) → t.status.getLsbD k = s.status.getLsbD k
          | .w =>
            if s.status.getLsbD 1 then t.status = s.status
            else t.status.getLsbD 1 = true ∧ t.status.extractLsb' 12 4 = code c ∧
              ∀ k, k ≠ 1 → ¬ (12 ≤ k ∧ k < 16) → t.status.getLsbD k = s.status.getLsbD k

/-- A reset sets every register to its value in 70_reset_and_hazards.md R156, whatever commands it discards, and leaves
the parameters as they are (R157). -/
def Obligations.ResetEventZeroesEveryRegister : Prop :=
  ∀ (s : State) (rDiscarded wDiscarded : Bool) (rest : List Event),
    s.inputs = .reset rDiscarded wDiscarded :: rest →
      ∃ t : State, step s = .next t ∧ t.params = s.params ∧ t.inputs = rest ∧
        t.db = List.replicate s.params.nDb
          { slot0 := List.replicate s.params.dbSlotWords 0, slot1 := List.replicate s.params.dbSlotWords 0,
            rsel := false, fresh := false } ∧
        t.biq = List.replicate s.params.nBiq
          { nsec := 0, gain := 0,
            secs := List.replicate s.params.biqMaxSec
              { b0 := 0, b1 := 0, b2 := 0, a1 := 0, a2 := 0, s0 := 0, s1 := 0 } } ∧
        t.cf1 = List.replicate s.params.nCf1 { tau := 0, xprev := 0, yprev := 0 } ∧
        t.cf2 = List.replicate s.params.nCf2 { tau := 0, x1 := 0, x2 := 0, y1 := 0, y2 := 0 } ∧
        t.pidd = List.replicate s.params.nPidd
          { kp := 0, ki := 0, kd := 0, k1 := 0, k2 := 0, k3 := 0, e1 := 0, e2 := 0, uprev := 0 } ∧
        t.pidt = List.replicate s.params.nPidt { kp := 0, ki := 0, kd := 0, sat := 0, integ := 0, eprev := 0 } ∧
        t.status = 0

/-- Every register of the state after reset has its value in 70_reset_and_hazards.md R156, for the parameters of
00_scope.md R6's last column, with no event waiting (these two are the model's choices, log 1, 2), and a reset from there
changes nothing. -/
def Obligations.StateResetIsTheAllZeroState : Prop :=
  State.reset.params =
    { nDb := 2, nBiq := 1, nCf1 := 2, nCf2 := 1, nPidd := 1, nPidt := 1, biqMaxSec := 4, dbSlotWords := 2 } ∧
  State.reset.db = List.replicate 2 { slot0 := [0, 0], slot1 := [0, 0], rsel := false, fresh := false } ∧
  State.reset.biq =
    [{ nsec := 0, gain := 0, secs := List.replicate 4 { b0 := 0, b1 := 0, b2 := 0, a1 := 0, a2 := 0, s0 := 0, s1 := 0 } }] ∧
  State.reset.cf1 = List.replicate 2 { tau := 0, xprev := 0, yprev := 0 } ∧
  State.reset.cf2 = [{ tau := 0, x1 := 0, x2 := 0, y1 := 0, y2 := 0 }] ∧
  State.reset.pidd = [{ kp := 0, ki := 0, kd := 0, k1 := 0, k2 := 0, k3 := 0, e1 := 0, e2 := 0, uprev := 0 }] ∧
  State.reset.pidt = [{ kp := 0, ki := 0, kd := 0, sat := 0, integ := 0, eprev := 0 }] ∧
  State.reset.status = 0 ∧
  State.reset.inputs = [] ∧
  ∃ t : State, step (State.reset.offer (.reset false false)) = .next t ∧ t = State.reset

/-- Every step gives a next state: it takes the first event off, or holds the state where there is none, and never
changes the parameters (10_state.md R20, R32; 60_exceptions.md R140; the idle step is the model's reading, log 3). -/
def Obligations.EveryStepGoesOn : Prop :=
  ∀ s : State, ∃ t : State, step s = .next t ∧ t.inputs = s.inputs.tail ∧ t.params = s.params ∧
    (s.inputs = [] → t = s)

/-- Every issued command and every reset has its whole effect, in order, each on the state that the ones before it
left: after as many steps as there are events, none is left, and the state is what their effects, one after the other,
make of it (20_memory.md R51, R53; 70_reset_and_hazards.md R173, D38). That the events stand in the state as a list is
the model's choice (log 2). -/
def Obligations.EveryEventTakesEffect : Prop :=
  ∀ s : State, ∃ t : State, Host.Core.run Sys2Proof.core s.inputs.length s = .next t ∧ t.inputs = [] ∧
    t = s.inputs.foldl afterEvent { s with inputs := [] }

/-! ### Invariants -/

/-- The invariant of the block (legal parameters, as many instances, sections and slot words as the parameters say,
NSEC in its range, STATUS of 10_state.md R33) is kept by every step from every state that has it, for every event. -/
def Obligations.EveryStepKeepsTheInvariant : Prop :=
  ∀ s t : State, s.wf = true → step s = .next t → t.wf = true

/-- The state after reset has the invariant, for all legal parameters and for those of `State.reset` (log 1). -/
def Obligations.ResetStatesHaveTheInvariant : Prop :=
  (∀ m : Params, m.legal = true → (State.resetWith m).wf = true) ∧ State.reset.wf = true

/-- A command on the W port changes no state but double buffers and its own fields of STATUS (20_memory.md R54,
60_exceptions.md R142), and a double buffer only where it is a legal DB.WRITE that names it. -/
def Obligations.WritePortTouchesOnlyBuffersAndItsRecord : Prop :=
  ∀ (s t : State) (q : Request) (rest : List Event),
    s.inputs = .command .w q :: rest → step s = .next t →
      t = { s with inputs := rest, port := .w, db := t.db, status := t.status, wResp := t.wResp } ∧
      (∀ k, k ≠ 1 → ¬ (12 ≤ k ∧ k < 16) → t.status.getLsbD k = s.status.getLsbD k) ∧
      (∀ n : Byte, (Event.command .w q).writesDb s.params n = false → t.db[n.toNat]? = s.db[n.toNat]?)

/-- A command changes no instance but the one it names (10_state.md R23). -/
def Obligations.OtherInstancesAreUnchanged : Prop :=
  ∀ (i : Instr) (s t : State) (fam n : Nat), exec i s = .next t → fam ≠ 0 →
    (fam ≠ instrFamily i ∨ n ≠ instrTarget i) → sameInst fam n t s

/-- A command reads no instance but the one it names: from two states with the same parameters, port and free values
that hold the same named instance, the response and the instance afterwards are the same (10_state.md R23). That equal
counters draw equal NaN patterns in both runs (00_scope.md R12) is the model's numbering of the free values, not the
spec's: log 6. -/
def Obligations.ResultsDependOnTheNamedInstanceOnly : Prop :=
  ∀ (i : Instr) (s₁ s₂ t₁ t₂ : State),
    s₁.params = s₂.params → s₁.port = s₂.port → s₁.draws = s₂.draws →
    sameInst (instrFamily i) (instrTarget i) s₁ s₂ →
    exec i s₁ = .next t₁ → exec i s₂ = .next t₂ →
      sameInst (instrFamily i) (instrTarget i) t₁ t₂ ∧ t₁.respOf s₁.port = t₂.respOf s₁.port

/-- RW registers change by a WREG of their own instance only, and a WREG changes no RO-state or RO-derived register
(10_state.md R24; the change by reset is `ResetEventZeroesEveryRegister`). -/
def Obligations.RegistersChangeByTheirClass : Prop :=
  ∀ (i : Instr) (s t : State) (fam n : Nat), exec i s = .next t →
    ((fam ≠ instrFamily i ∨ n ≠ instrTarget i ∨ opOf (encode i).cmd ≠ 1) → configOf fam n t = configOf fam n s) ∧
    (opOf (encode i).cmd = 1 → historyOf fam n t = historyOf fam n s)

/-- The derived coefficients K1, K2 and K3 of a PIDD instance keep their values under every command but PIDD.INIT of
that instance, gain writes among them (10_state.md R35, 70_reset_and_hazards.md R160). -/
def Obligations.PiddCoefficientsChangeByInitOnly : Prop :=
  ∀ (i : Instr) (s t : State) (n : Byte), exec i s = .next t → (∀ idx, i ≠ .piddInit n idx) →
    t.pidd[n.toNat]?.map (fun c => (c.k1, c.k2, c.k3)) = s.pidd[n.toNat]?.map (fun c => (c.k1, c.k2, c.k3))

/-- Idempotent commands (20_memory.md R52): the second of two in a row changes nothing. PIDD.INIT is idempotent in
every register whose value is not a NaN, since each NaN has a free pattern of its own (log 6). -/
def Obligations.RepeatedCommandsAreIdempotent : Prop :=
  (∀ (i : Instr) (s t : State), exec i s = .next t →
    (match i with
      | .dbRead _ _ | .dbWrite _ _ _ _ | .biqSample _ _ _ | .cf1SampleAcc _ _ _ | .cf1SampleGyr _ _ _
      | .cf2SampleAcc _ _ _ | .cf2SampleGyr _ _ _ | .piddInit _ _ | .piddCalc _ _ _ | .pidtCalc _ _ _ _ => False
      | _ => True) →
      exec i t = .next t) ∧
  (∀ (n idx : Byte) (s t : State), exec (.piddInit n idx) s = .next t →
    (∀ c, t.pidd[n.toNat]? = some c → isNaN c.k1 = false ∧ isNaN c.k2 = false) →
      ∃ d : Nat, exec (.piddInit n idx) t = .next { t with draws := d })

/-! ### SYS -/

/-- SYS.NOP answers zeros on either port and changes nothing (44_system.md R130). -/
def Obligations.SysNopChangesNothing : Prop :=
  decodesAt 0x00 (fun inst idx _ _ => .sysNop inst idx) ∧
  (∀ inst idx, refusesIllegal (.sysNop inst idx)) ∧
  ∀ s : State,
    (s.port = .r → exec (.sysNop 0 0) s = .next { s with rResp := { flags := 0, d0 := 0, d1 := 0 } }) ∧
    (s.port = .w → exec (.sysNop 0 0) s = .next { s with wResp := { flags := 0, d0 := 0, d1 := 0 } })

/-- SYS.STAT_R answers STATUS and changes nothing else (44_system.md R131). -/
def Obligations.SysStatRAnswersStatus : Prop :=
  decodesAt 0x01 (fun inst idx _ _ => .sysStatR inst idx) ∧
  (∀ inst idx, refusesIllegal (.sysStatR inst idx)) ∧
  ∀ s : State, s.port = .r →
    exec (.sysStatR 0 0) s = .next { s with rResp := { flags := 0, d0 := s.status, d1 := 0 } }

/-- SYS.STAT_C clears STATUS, both ports' fields, and nothing else (44_system.md R132). -/
def Obligations.SysStatCClearsStatus : Prop :=
  decodesAt 0x02 (fun inst idx _ _ => .sysStatC inst idx) ∧
  (∀ inst idx, refusesIllegal (.sysStatC inst idx)) ∧
  ∀ s : State, s.port = .r →
    exec (.sysStatC 0 0) s = .next { s with status := 0, rResp := { flags := 0, d0 := 0, d1 := 0 } }

/-- SYS.PARAM_R answers entry `k` of the parameter table, 0 to 8 (44_system.md R133). -/
def Obligations.SysParamRAnswersTheTable : Prop :=
  decodesAt 0x03 (fun inst idx _ _ => .sysParamR inst idx) ∧
  (∀ inst idx, refusesIllegal (.sysParamR inst idx)) ∧
  ∀ (s : State) (k : Byte) (v : Nat), s.port = .r →
    [s.params.nDb, s.params.nBiq, s.params.nCf1, s.params.nCf2, s.params.nPidd, s.params.nPidt, s.params.biqMaxSec,
      s.params.dbSlotWords, 7][k.toNat]? = some v →
    exec (.sysParamR 0 k) s = .next { s with rResp := { flags := 0, d0 := BitVec.ofNat 32 v, d1 := 0 } }

/-! ### DB -/

/-- DB.INIT empties the buffer it names, and changes nothing else (40_double_buffer.md R80). -/
def Obligations.DbInitEmptiesTheBuffer : Prop :=
  decodesAt 0x10 (fun inst idx _ _ => .dbInit inst idx) ∧
  (∀ inst idx, refusesIllegal (.dbInit inst idx)) ∧
  ∀ (s : State) (i : Byte), s.port = .r → i.toNat < s.params.nDb →
    exec (.dbInit i 0) s = .next
      { s with
        db := s.db.set i.toNat
          { slot0 := List.replicate s.params.dbSlotWords 0, slot1 := List.replicate s.params.dbSlotWords 0,
            rsel := false, fresh := false }
        rResp := { flags := 0, d0 := 0, d1 := 0 } }

/-- DB.RREG answers NEW in bit 1 and RSEL in bit 0, and clears nothing (40_double_buffer.md R81). -/
def Obligations.DbRregAnswersCtrl : Prop :=
  decodesAt 0x12 (fun inst idx _ _ => .dbRreg inst idx) ∧
  (∀ inst idx, refusesIllegal (.dbRreg inst idx)) ∧
  ∀ (s : State) (i : Byte) (d : DbInst), s.port = .r → i.toNat < s.params.nDb → s.db[i.toNat]? = some d →
    exec (.dbRreg i 0) s = .next
      { s with rResp :=
          { flags := 0, d0 := (if d.fresh then 2#32 else 0#32) + (if d.rsel then 1#32 else 0#32), d1 := 0 } }

/-- DB.READ answers the readable slot's words, with NEW in bit 8 and the slot in bit 9 of FLAGS, and clears NEW and
nothing else (40_double_buffer.md R82, 30_encoding.md R63). -/
def Obligations.DbReadAnswersTheReadableSlot : Prop :=
  decodesAt 0x13 (fun inst idx _ _ => .dbRead inst idx) ∧
  (∀ inst idx, refusesIllegal (.dbRead inst idx)) ∧
  ∀ (s : State) (i : Byte) (d : DbInst), s.port = .r → i.toNat < s.params.nDb → s.db[i.toNat]? = some d →
    exec (.dbRead i 0) s = .next
      { s with
        db := s.db.set i.toNat { d with fresh := false }
        rResp :=
          { flags := (if d.rsel then 0x200#32 else 0#32) + (if d.fresh then 0x100#32 else 0#32)
            d0 := (if d.rsel then d.slot1 else d.slot0).getD 0 0
            d1 := if s.params.dbSlotWords = 2 then (if d.rsel then d.slot1 else d.slot0).getD 1 0 else 0 } }

/-- DB.WRITE, on the W port, fills the slot that is not readable with the whole payload, flips RSEL to it and sets NEW,
and changes nothing else; OP1 is ignored where a slot has one word (40_double_buffer.md R83). -/
def Obligations.DbWritePublishesTheOtherSlot : Prop :=
  decodesAt 0x14 (fun inst idx op0 op1 => .dbWrite inst idx op0 op1) ∧
  (∀ inst idx op0 op1, refusesIllegal (.dbWrite inst idx op0 op1)) ∧
  ∀ (s : State) (i : Byte) (d : DbInst) (op0 op1 : Word) (payload : List Word),
    s.port = .w → i.toNat < s.params.nDb → s.db[i.toNat]? = some d →
    (s.params.dbSlotWords = 2 ∧ payload = [op0, op1] ∨ s.params.dbSlotWords = 1 ∧ payload = [op0]) →
    exec (.dbWrite i 0 op0 op1) s = .next
      { s with
        db := s.db.set i.toNat
          (if d.rsel then { slot0 := payload, slot1 := d.slot1, rsel := false, fresh := true }
            else { slot0 := d.slot0, slot1 := payload, rsel := true, fresh := true })
        wResp := { flags := 0, d0 := 0, d1 := 0 } }

/-- After a DB.WRITE, whatever events follow that do not replace the buffer's contents, a DB.READ answers that write's
payload whole, with NEW set exactly if no DB.READ of it came between (40_double_buffer.md R85, R87). -/
def Obligations.ReadsReturnTheLastWritePayloadWhole : Prop :=
  ∀ (s : State) (n : Byte) (op0 op1 : Word) (evs rest : List Event),
    s.wf = true → n.toNat < s.params.nDb →
    s.inputs = .command .w (encode (.dbWrite n 0 op0 op1)) :: (evs ++ .command .r (encode (.dbRead n 0)) :: rest) →
    (∀ e ∈ evs, e.replacesDb s.params n = false) →
      ∃ t : State, Host.Core.run Sys2Proof.core (evs.length + 2) s = .next t ∧ t.inputs = rest ∧
        t.rResp.d0 = op0 ∧ t.rResp.d1 = (if s.params.dbSlotWords = 2 then op1 else 0) ∧
        t.rResp.fresh = !(evs.any (fun e => e.readsDb s.params n)) ∧ t.rResp.ill = false

/-- If no DB.WRITE of the buffer has taken effect since a reset or a DB.INIT of it, a DB.READ answers zeros: zero data,
NEW = 0 and SLOT = 0 (40_double_buffer.md R84). -/
def Obligations.ReadBeforeAnyWriteAnswersZero : Prop :=
  ∀ (s : State) (n : Byte) (e : Event) (evs rest : List Event),
    s.wf = true → n.toNat < s.params.nDb →
    (e = .command .r (encode (.dbInit n 0)) ∨ ∃ a b, e = .reset a b) →
    s.inputs = e :: (evs ++ .command .r (encode (.dbRead n 0)) :: rest) →
    (∀ e ∈ evs, e.writesDb s.params n = false) →
      ∃ t : State, Host.Core.run Sys2Proof.core (evs.length + 2) s = .next t ∧ t.inputs = rest ∧
        t.rResp = { flags := 0, d0 := 0, d1 := 0 }

/-- A DB.READ and a DB.WRITE of one buffer in flight together: the read first answers the old slot with the old NEW and
the write sets NEW; the write first makes the read answer the new payload with NEW = 1 (40_double_buffer.md R86). -/
def Obligations.ReadWriteRaceHasTwoOutcomes : Prop :=
  ∀ (s : State) (n : Byte) (d : DbInst) (op0 op1 : Word),
    s.wf = true → n.toNat < s.params.nDb → s.db[n.toNat]? = some d →
      (∃ t, Host.Core.run Sys2Proof.core 2
          { s with inputs := [.command .r (encode (.dbRead n 0)), .command .w (encode (.dbWrite n 0 op0 op1))] } =
            .next t ∧
        t.rResp.d0 = (if d.rsel then d.slot1 else d.slot0).getD 0 0 ∧
        t.rResp.d1 = (if s.params.dbSlotWords = 2 then (if d.rsel then d.slot1 else d.slot0).getD 1 0 else 0) ∧
        t.rResp.fresh = d.fresh ∧
        t.rResp.slot = d.rsel ∧ t.db[n.toNat]?.map (fun x => (x.rsel, x.fresh)) = some (!d.rsel, true)) ∧
      (∃ t, Host.Core.run Sys2Proof.core 2
          { s with inputs := [.command .w (encode (.dbWrite n 0 op0 op1)), .command .r (encode (.dbRead n 0))] } =
            .next t ∧
        t.rResp.d0 = op0 ∧ t.rResp.d1 = (if s.params.dbSlotWords = 2 then op1 else 0) ∧ t.rResp.fresh = true ∧
        t.rResp.slot = !d.rsel ∧ t.db[n.toNat]?.map (fun x => (x.rsel, x.fresh)) = some (!d.rsel, false))

/-- A payload of at most `4*DB_SLOT_WORDS` bytes, packed and written by the W agent: its byte `j` stands in bits
`8*(j mod 4)+7 : 8*(j mod 4)` of word `j div 4` of the readable slot, and is byte `j` of the words that a DB.READ gives
the R agent (20_memory.md R48). The first clause is the packing alone, where the bytes that a payload does not have are
packed as 0: the model's choice, log 21. -/
def Obligations.PayloadBytesArePackedLittleEndian : Prop :=
  (∀ (bytes : List Byte) (j : Nat), j < 8 →
    payloadByte [payloadWord bytes 0, payloadWord bytes 1] j = bytes.getD j 0) ∧
  ∀ (s : State) (n : Byte) (bytes : List Byte),
    s.wf = true → n.toNat < s.params.nDb → bytes.length ≤ 4 * s.params.dbSlotWords →
      ∃ (t : State) (d : DbInst), Host.Core.run Sys2Proof.core 2
          { s with
            inputs :=
              [.command .w (encode (.dbWrite n 0 (payloadWord bytes 0) (payloadWord bytes 1))),
               .command .r (encode (.dbRead n 0))] } = .next t ∧
        t.db[n.toNat]? = some d ∧
        ∀ (j : Nat) (b : Byte), bytes[j]? = some b →
          (∃ w, (if d.rsel then d.slot1 else d.slot0)[j / 4]? = some w ∧ w.extractLsb' (8 * (j % 4)) 8 = b) ∧
          payloadByte [t.rResp.d0, t.rResp.d1] j = b

/-! ### BIQ -/

/-- BIQ.INIT clears the state words of every section, active or not, and changes nothing else (41_biquad.md R90). -/
def Obligations.BiqInitClearsTheDelayLine : Prop :=
  decodesAt 0x20 (fun inst idx _ _ => .biqInit inst idx) ∧
  (∀ inst idx, refusesIllegal (.biqInit inst idx)) ∧
  ∀ (s : State) (i : Byte) (b : BiqInst), s.port = .r → i.toNat < s.params.nBiq → s.biq[i.toNat]? = some b →
    exec (.biqInit i 0) s = .next
      { s with
        biq := s.biq.set i.toNat { b with secs := b.secs.map fun c => { c with s0 := 0, s1 := 0 } }
        rResp := { flags := 0, d0 := 0, d1 := 0 } }

/-- BIQ.WREG writes the RW register that IDX names, bit-exact, and nothing else; NSEC takes values up to BIQ_MAX_SEC
(41_biquad.md R91, 10_state.md R26). -/
def Obligations.BiqWregWritesTheNamedRegister : Prop :=
  decodesAt 0x21 (fun inst idx op0 _ => .biqWreg inst idx op0) ∧
  (∀ inst idx op0, refusesIllegal (.biqWreg inst idx op0)) ∧
  ∀ (s : State) (i : Byte) (b : BiqInst) (v : Word), s.port = .r → i.toNat < s.params.nBiq →
    s.biq[i.toNat]? = some b →
    let upd := fun b' : BiqInst =>
      { s with biq := s.biq.set i.toNat b', rResp := { flags := 0, d0 := 0, d1 := 0 } }
    (v.toNat ≤ s.params.biqMaxSec → exec (.biqWreg i 0x00 v) s = .next (upd { b with nsec := v })) ∧
    exec (.biqWreg i 0x01 v) s = .next (upd { b with gain := v }) ∧
    ∀ (j : Nat) (c : Section), j < s.params.biqMaxSec → j < 31 → b.secs[j]? = some c →
      let put := fun c' : Section => upd { b with secs := b.secs.set j c' }
      exec (.biqWreg i (BitVec.ofNat 8 (8 + 8 * j + 0)) v) s = .next (put { c with b0 := v }) ∧
      exec (.biqWreg i (BitVec.ofNat 8 (8 + 8 * j + 1)) v) s = .next (put { c with b1 := v }) ∧
      exec (.biqWreg i (BitVec.ofNat 8 (8 + 8 * j + 2)) v) s = .next (put { c with b2 := v }) ∧
      exec (.biqWreg i (BitVec.ofNat 8 (8 + 8 * j + 3)) v) s = .next (put { c with a1 := v }) ∧
      exec (.biqWreg i (BitVec.ofNat 8 (8 + 8 * j + 4)) v) s = .next (put { c with a2 := v })

/-- BIQ.RREG answers the register that IDX names and changes nothing (41_biquad.md R92, 10_state.md R26). -/
def Obligations.BiqRregAnswersTheNamedRegister : Prop :=
  decodesAt 0x22 (fun inst idx _ _ => .biqRreg inst idx) ∧
  (∀ inst idx, refusesIllegal (.biqRreg inst idx)) ∧
  ∀ (s : State) (i : Byte) (b : BiqInst), s.port = .r → i.toNat < s.params.nBiq → s.biq[i.toNat]? = some b →
    let got := fun v : Word => { s with rResp := { flags := 0, d0 := v, d1 := 0 } }
    exec (.biqRreg i 0x00) s = .next (got b.nsec) ∧ exec (.biqRreg i 0x01) s = .next (got b.gain) ∧
    ∀ (j : Nat) (c : Section), j < s.params.biqMaxSec → j < 31 → b.secs[j]? = some c →
      exec (.biqRreg i (BitVec.ofNat 8 (8 + 8 * j + 0))) s = .next (got c.b0) ∧
      exec (.biqRreg i (BitVec.ofNat 8 (8 + 8 * j + 1))) s = .next (got c.b1) ∧
      exec (.biqRreg i (BitVec.ofNat 8 (8 + 8 * j + 2))) s = .next (got c.b2) ∧
      exec (.biqRreg i (BitVec.ofNat 8 (8 + 8 * j + 3))) s = .next (got c.a1) ∧
      exec (.biqRreg i (BitVec.ofNat 8 (8 + 8 * j + 4))) s = .next (got c.a2) ∧
      exec (.biqRreg i (BitVec.ofNat 8 (8 + 8 * j + 5))) s = .next (got c.s0) ∧
      exec (.biqRreg i (BitVec.ofNat 8 (8 + 8 * j + 6))) s = .next (got c.s1)

/-- BIQ.SAMPLE: `v j` is the input of section `j`, from `v 0 = x`; each active section gives
`y = b0*v + S0`, `S0' = b1*v + S1 - a1*y`, `S1' = b2*v - a2*y` from its old words, the others stay, and the answer is
the last output times GAIN (41_biquad.md R93, R96). -/
def Obligations.BiqSampleRunsTheCascade : Prop :=
  decodesAt 0x23 (fun inst idx op0 _ => .biqSample inst idx op0) ∧
  (∀ inst idx op0, refusesIllegal (.biqSample inst idx op0)) ∧
  ∀ (s : State) (i : Byte) (b : BiqInst) (x : Word), s.port = .r → i.toNat < s.params.nBiq →
    s.biq[i.toNat]? = some b → b.nsec.toNat ≤ b.secs.length →
    ∃ (v : Nat → Word) (secs : List Section) (d k : Nat),
      v 0 = x ∧ secs.length = b.secs.length ∧
      exec (.biqSample i 0 x) s = .next
        { s with
          biq := s.biq.set i.toNat { b with secs := secs }
          draws := d
          rResp := { flags := 0, d0 := fmul k (v b.nsec.toNat) b.gain, d1 := 0 } } ∧
      ∀ (j : Nat) (c : Section), b.secs[j]? = some c →
        (b.nsec.toNat ≤ j → secs[j]? = some c) ∧
        (j < b.nsec.toNat → ∃ n : Nat → Nat,
          v (j + 1) = fadd (n 1) (fmul (n 0) c.b0 (v j)) c.s0 ∧
          secs[j]? = some
            { c with
              s0 := fsub (n 5) (fadd (n 3) (fmul (n 2) c.b1 (v j)) c.s1) (fmul (n 4) c.a1 (v (j + 1)))
              s1 := fsub (n 8) (fmul (n 6) c.b2 (v j)) (fmul (n 7) c.a2 (v (j + 1))) })

/-- A cascade in zero state with finite coefficients and gain answers a zero to a zero, for any NSEC, and its state
words stay zeros (41_biquad.md R94). -/
def Obligations.ZeroInputOnZeroStateGivesZero : Prop :=
  ∀ (s : State) (i : Byte) (b : BiqInst) (x : Word), s.port = .r → i.toNat < s.params.nBiq →
    s.biq[i.toNat]? = some b → isZero x = true → isFinite b.gain = true →
    (∀ c ∈ b.secs, isZero c.s0 = true ∧ isZero c.s1 = true ∧ isFinite c.b0 = true ∧ isFinite c.b1 = true ∧
      isFinite c.b2 = true ∧ isFinite c.a1 = true ∧ isFinite c.a2 = true) →
      ∃ (t : State) (b' : BiqInst), exec (.biqSample i 0 x) s = .next t ∧ isZero t.rResp.d0 = true ∧
        t.biq[i.toNat]? = some b' ∧ ∀ c ∈ b'.secs, isZero c.s0 = true ∧ isZero c.s1 = true

/-! ### CF1 and CF2 -/

/-- CF1.INIT, CF2.INIT and PIDT.INIT clear the history of the instance they name, keep its configuration, and change
nothing else (42_complementary.md R100, R107; 43_pid.md R119). -/
def Obligations.FilterInitsClearTheHistory : Prop :=
  decodesAt 0x30 (fun inst idx _ _ => .cf1Init inst idx) ∧
  decodesAt 0x40 (fun inst idx _ _ => .cf2Init inst idx) ∧
  decodesAt 0x60 (fun inst idx _ _ => .pidtInit inst idx) ∧
  (∀ inst idx, refusesIllegal (.cf1Init inst idx) ∧ refusesIllegal (.cf2Init inst idx) ∧
    refusesIllegal (.pidtInit inst idx)) ∧
  (∀ (s : State) (i : Byte) (c : Cf1Inst), s.port = .r → i.toNat < s.params.nCf1 → s.cf1[i.toNat]? = some c →
    exec (.cf1Init i 0) s = .next
      { s with
        cf1 := s.cf1.set i.toNat { tau := c.tau, xprev := 0, yprev := 0 }
        rResp := { flags := 0, d0 := 0, d1 := 0 } }) ∧
  (∀ (s : State) (i : Byte) (c : Cf2Inst), s.port = .r → i.toNat < s.params.nCf2 → s.cf2[i.toNat]? = some c →
    exec (.cf2Init i 0) s = .next
      { s with
        cf2 := s.cf2.set i.toNat { tau := c.tau, x1 := 0, x2 := 0, y1 := 0, y2 := 0 }
        rResp := { flags := 0, d0 := 0, d1 := 0 } }) ∧
  (∀ (s : State) (i : Byte) (c : PidtInst), s.port = .r → i.toNat < s.params.nPidt → s.pidt[i.toNat]? = some c →
    exec (.pidtInit i 0) s = .next
      { s with
        pidt := s.pidt.set i.toNat { kp := c.kp, ki := c.ki, kd := c.kd, sat := c.sat, integ := 0, eprev := 0 }
        rResp := { flags := 0, d0 := 0, d1 := 0 } })

/-- CF1.WREG and CF2.WREG of index 0 write TAU, bit-exact, and nothing else (42_complementary.md R101, R108). -/
def Obligations.FilterWregsWriteTau : Prop :=
  decodesAt 0x31 (fun inst idx op0 _ => .cf1Wreg inst idx op0) ∧
  decodesAt 0x41 (fun inst idx op0 _ => .cf2Wreg inst idx op0) ∧
  (∀ inst idx op0, refusesIllegal (.cf1Wreg inst idx op0) ∧ refusesIllegal (.cf2Wreg inst idx op0)) ∧
  (∀ (s : State) (i : Byte) (c : Cf1Inst) (v : Word), s.port = .r → i.toNat < s.params.nCf1 →
    s.cf1[i.toNat]? = some c →
    exec (.cf1Wreg i 0 v) s = .next
      { s with
        cf1 := s.cf1.set i.toNat { c with tau := v }
        rResp := { flags := 0, d0 := 0, d1 := 0 } }) ∧
  (∀ (s : State) (i : Byte) (c : Cf2Inst) (v : Word), s.port = .r → i.toNat < s.params.nCf2 →
    s.cf2[i.toNat]? = some c →
    exec (.cf2Wreg i 0 v) s = .next
      { s with
        cf2 := s.cf2.set i.toNat { c with tau := v }
        rResp := { flags := 0, d0 := 0, d1 := 0 } })

/-- CF1.RREG and CF2.RREG answer the register that IDX names and change nothing (42_complementary.md R102, R109;
10_state.md R27, R28). -/
def Obligations.FilterRregsAnswerTheNamedRegister : Prop :=
  decodesAt 0x32 (fun inst idx _ _ => .cf1Rreg inst idx) ∧
  decodesAt 0x42 (fun inst idx _ _ => .cf2Rreg inst idx) ∧
  (∀ inst idx, refusesIllegal (.cf1Rreg inst idx) ∧ refusesIllegal (.cf2Rreg inst idx)) ∧
  (∀ (s : State) (i idx : Byte) (c : Cf1Inst) (v : Word), s.port = .r → i.toNat < s.params.nCf1 →
    s.cf1[i.toNat]? = some c → [c.tau, c.xprev, c.yprev][idx.toNat]? = some v →
    exec (.cf1Rreg i idx) s = .next { s with rResp := { flags := 0, d0 := v, d1 := 0 } }) ∧
  (∀ (s : State) (i idx : Byte) (c : Cf2Inst) (v : Word), s.port = .r → i.toNat < s.params.nCf2 →
    s.cf2[i.toNat]? = some c → [c.tau, c.x1, c.x2, c.y1, c.y2][idx.toNat]? = some v →
    exec (.cf2Rreg i idx) s = .next { s with rResp := { flags := 0, d0 := v, d1 := 0 } })

/-- CF1.SAMPLE_ACC: `y = (x + x_prev - y_prev*(1-tau)) / (tau+1)`, evaluated as written; `x` and `y` become the history
(42_complementary.md R103). -/
def Obligations.Cf1SampleAccIsTheLowPassTerm : Prop :=
  decodesAt 0x33 (fun inst idx op0 _ => .cf1SampleAcc inst idx op0) ∧
  (∀ inst idx op0, refusesIllegal (.cf1SampleAcc inst idx op0)) ∧
  ∀ (s : State) (i : Byte) (c : Cf1Inst) (x : Word), s.port = .r → i.toNat < s.params.nCf1 →
    s.cf1[i.toNat]? = some c →
    ∃ (y : Word) (n : Nat → Nat) (d : Nat),
      y = fdiv (n 5)
        (fsub (n 3) (fadd (n 0) x c.xprev) (fmul (n 2) c.yprev (fsub (n 1) 0x3F800000#32 c.tau)))
        (fadd (n 4) c.tau 0x3F800000#32) ∧
      exec (.cf1SampleAcc i 0 x) s = .next
        { s with
          cf1 := s.cf1.set i.toNat { tau := c.tau, xprev := x, yprev := y }
          draws := d
          rResp := { flags := 0, d0 := y, d1 := 0 } }

/-- CF1.SAMPLE_GYR: `y = (x*tau + x_prev*tau - y_prev*(1-tau)) / (tau+1)`, the two products rounded separately; `x` and
`y` become the history (42_complementary.md R104). -/
def Obligations.Cf1SampleGyrIsTheComplementaryTerm : Prop :=
  decodesAt 0x34 (fun inst idx op0 _ => .cf1SampleGyr inst idx op0) ∧
  (∀ inst idx op0, refusesIllegal (.cf1SampleGyr inst idx op0)) ∧
  ∀ (s : State) (i : Byte) (c : Cf1Inst) (x : Word), s.port = .r → i.toNat < s.params.nCf1 →
    s.cf1[i.toNat]? = some c →
    ∃ (y : Word) (n : Nat → Nat) (d : Nat),
      y = fdiv (n 7)
        (fsub (n 5) (fadd (n 2) (fmul (n 0) x c.tau) (fmul (n 1) c.xprev c.tau))
          (fmul (n 4) c.yprev (fsub (n 3) 0x3F800000#32 c.tau)))
        (fadd (n 6) c.tau 0x3F800000#32) ∧
      exec (.cf1SampleGyr i 0 x) s = .next
        { s with
          cf1 := s.cf1.set i.toNat { tau := c.tau, xprev := x, yprev := y }
          draws := d
          rResp := { flags := 0, d0 := y, d1 := 0 } }

/-- CF2.SAMPLE_ACC and CF2.SAMPLE_GYR: `y = c0*x + c1*X1 + c2*X2 - d1*Y1 - d2*Y2` with the coefficients that the open
function gives for the branch and TAU; the history shifts (42_complementary.md R105, R110, R111). -/
def Obligations.Cf2SamplesAreADirectFormSection : Prop :=
  decodesAt 0x43 (fun inst idx op0 _ => .cf2SampleAcc inst idx op0) ∧
  decodesAt 0x44 (fun inst idx op0 _ => .cf2SampleGyr inst idx op0) ∧
  (∀ inst idx op0, refusesIllegal (.cf2SampleAcc inst idx op0) ∧ refusesIllegal (.cf2SampleGyr inst idx op0)) ∧
  ∀ (s : State) (i : Byte) (c : Cf2Inst) (x : Word), s.port = .r → i.toNat < s.params.nCf2 →
    s.cf2[i.toNat]? = some c →
    let out := fun (g : Cf2Coeffs) (n : Nat → Nat) =>
      fsub (n 8)
        (fsub (n 6)
          (fadd (n 4) (fadd (n 2) (fmul (n 0) g.c0 x) (fmul (n 1) g.c1 c.x1)) (fmul (n 3) g.c2 c.x2))
          (fmul (n 5) g.d1 c.y1))
        (fmul (n 7) g.d2 c.y2)
    let upd := fun (y : Word) (d : Nat) =>
      { s with
        cf2 := s.cf2.set i.toNat { tau := c.tau, x1 := x, x2 := c.x1, y1 := y, y2 := c.y1 }
        draws := d
        rResp := { flags := 0, d0 := y, d1 := 0 } }
    (∃ (n : Nat → Nat) (d : Nat),
      exec (.cf2SampleAcc i 0 x) s = .next (upd (out (Config.cf2Coeffs .acc c.tau) n) d)) ∧
    (∃ (n : Nat → Nat) (d : Nat),
      exec (.cf2SampleGyr i 0 x) s = .next (upd (out (Config.cf2Coeffs .gyr c.tau) n) d))

/-! ### PIDD and PIDT -/

/-- PIDD.INIT: K1 = Kp+Ki+Kd, K2 = -Kp-2Kd, K3 = Kd, and the history cleared (43_pid.md R115). -/
def Obligations.PiddInitDerivesTheCoefficients : Prop :=
  decodesAt 0x50 (fun inst idx _ _ => .piddInit inst idx) ∧
  (∀ inst idx, refusesIllegal (.piddInit inst idx)) ∧
  ∀ (s : State) (i : Byte) (c : PiddInst), s.port = .r → i.toNat < s.params.nPidd → s.pidd[i.toNat]? = some c →
    ∃ (n : Nat → Nat) (d : Nat),
      exec (.piddInit i 0) s = .next
        { s with
          pidd := s.pidd.set i.toNat
            { kp := c.kp, ki := c.ki, kd := c.kd
              k1 := fadd (n 1) (fadd (n 0) c.kp c.ki) c.kd
              k2 := fsub (n 3) (fneg c.kp) (fmul (n 2) 0x40000000#32 c.kd)
              k3 := c.kd
              e1 := 0, e2 := 0, uprev := 0 }
          draws := d
          rResp := { flags := 0, d0 := 0, d1 := 0 } }

/-- PIDD.WREG writes KP, KI or KD, bit-exact, and nothing else (43_pid.md R116). -/
def Obligations.PiddWregWritesAGain : Prop :=
  decodesAt 0x51 (fun inst idx op0 _ => .piddWreg inst idx op0) ∧
  (∀ inst idx op0, refusesIllegal (.piddWreg inst idx op0)) ∧
  ∀ (s : State) (i : Byte) (c : PiddInst) (v : Word), s.port = .r → i.toNat < s.params.nPidd →
    s.pidd[i.toNat]? = some c →
    let upd := fun c' : PiddInst =>
      { s with pidd := s.pidd.set i.toNat c', rResp := { flags := 0, d0 := 0, d1 := 0 } }
    exec (.piddWreg i 0 v) s = .next (upd { c with kp := v }) ∧
    exec (.piddWreg i 1 v) s = .next (upd { c with ki := v }) ∧
    exec (.piddWreg i 2 v) s = .next (upd { c with kd := v })

/-- PIDD.RREG answers the register that IDX names and changes nothing (43_pid.md R117, 10_state.md R29). -/
def Obligations.PiddRregAnswersTheNamedRegister : Prop :=
  decodesAt 0x52 (fun inst idx _ _ => .piddRreg inst idx) ∧
  (∀ inst idx, refusesIllegal (.piddRreg inst idx)) ∧
  ∀ (s : State) (i idx : Byte) (c : PiddInst) (v : Word), s.port = .r → i.toNat < s.params.nPidd →
    s.pidd[i.toNat]? = some c →
    [c.kp, c.ki, c.kd, c.k1, c.k2, c.k3, c.e1, c.e2, c.uprev][idx.toNat]? = some v →
    exec (.piddRreg i idx) s = .next { s with rResp := { flags := 0, d0 := v, d1 := 0 } }

/-- PIDD.CALC: `u = u_prev + K1*e + K2*e1 + K3*e2`, the K2 term added; the history shifts (43_pid.md R118). -/
def Obligations.PiddCalcIsTheDifferenceForm : Prop :=
  decodesAt 0x53 (fun inst idx op0 _ => .piddCalc inst idx op0) ∧
  (∀ inst idx op0, refusesIllegal (.piddCalc inst idx op0)) ∧
  ∀ (s : State) (i : Byte) (c : PiddInst) (e : Word), s.port = .r → i.toNat < s.params.nPidd →
    s.pidd[i.toNat]? = some c →
    ∃ (u : Word) (n : Nat → Nat) (d : Nat),
      u = fadd (n 5) (fadd (n 3) (fadd (n 1) c.uprev (fmul (n 0) c.k1 e)) (fmul (n 2) c.k2 c.e1))
        (fmul (n 4) c.k3 c.e2) ∧
      exec (.piddCalc i 0 e) s = .next
        { s with
          pidd := s.pidd.set i.toNat { c with e2 := c.e1, e1 := e, uprev := u }
          draws := d
          rResp := { flags := 0, d0 := u, d1 := 0 } }

/-- PIDT.WREG writes KP, KI, KD or SAT, bit-exact, and nothing else (43_pid.md R120). -/
def Obligations.PidtWregWritesAGainOrSat : Prop :=
  decodesAt 0x61 (fun inst idx op0 _ => .pidtWreg inst idx op0) ∧
  (∀ inst idx op0, refusesIllegal (.pidtWreg inst idx op0)) ∧
  ∀ (s : State) (i : Byte) (c : PidtInst) (v : Word), s.port = .r → i.toNat < s.params.nPidt →
    s.pidt[i.toNat]? = some c →
    let upd := fun c' : PidtInst =>
      { s with pidt := s.pidt.set i.toNat c', rResp := { flags := 0, d0 := 0, d1 := 0 } }
    exec (.pidtWreg i 0 v) s = .next (upd { c with kp := v }) ∧
    exec (.pidtWreg i 1 v) s = .next (upd { c with ki := v }) ∧
    exec (.pidtWreg i 2 v) s = .next (upd { c with kd := v }) ∧
    exec (.pidtWreg i 3 v) s = .next (upd { c with sat := v })

/-- PIDT.RREG answers the register that IDX names and changes nothing (43_pid.md R121, 10_state.md R30). -/
def Obligations.PidtRregAnswersTheNamedRegister : Prop :=
  decodesAt 0x62 (fun inst idx _ _ => .pidtRreg inst idx) ∧
  (∀ inst idx, refusesIllegal (.pidtRreg inst idx)) ∧
  ∀ (s : State) (i idx : Byte) (c : PidtInst) (v : Word), s.port = .r → i.toNat < s.params.nPidt →
    s.pidt[i.toNat]? = some c → [c.kp, c.ki, c.kd, c.sat, c.integ, c.eprev][idx.toNat]? = some v →
    exec (.pidtRreg i idx) s = .next { s with rResp := { flags := 0, d0 := v, d1 := 0 } }

/-- PIDT.CALC: accumulate `e*dt`, clamp, derive, and answer `Kp*e + Ki*integral + Kd*derivative` with the new integral
(43_pid.md R122). -/
def Obligations.PidtCalcIsTheGainForm : Prop :=
  decodesAt 0x63 (fun inst idx op0 op1 => .pidtCalc inst idx op0 op1) ∧
  (∀ inst idx op0 op1, refusesIllegal (.pidtCalc inst idx op0 op1)) ∧
  ∀ (s : State) (i : Byte) (c : PidtInst) (e dt : Word), s.port = .r → i.toNat < s.params.nPidt →
    s.pidt[i.toNat]? = some c →
    ∃ (integ deriv u : Word) (n : Nat → Nat) (d : Nat),
      integ = clamp (fadd (n 1) c.integ (fmul (n 0) e dt)) c.sat ∧
      deriv = fdiv (n 3) (fsub (n 2) e c.eprev) dt ∧
      u = fadd (n 8) (fadd (n 6) (fmul (n 4) c.kp e) (fmul (n 5) c.ki integ)) (fmul (n 7) c.kd deriv) ∧
      exec (.pidtCalc i 0 e dt) s = .next
        { s with
          pidt := s.pidt.set i.toNat { c with integ := integ, eprev := e }
          draws := d
          rResp := { flags := 0, d0 := u, d1 := 0 } }

/-- The clamp of 43_pid.md R123, and what it gives for every kind of bound: an interval for a finite `S ≥ 0` (and a value inside it is
kept), no clamping for `S = +inf` or a NaN, a NaN kept, and for `S < 0` the defined results of the rule. -/
def Obligations.ClampByTheKindOfBound : Prop :=
  ∀ q S : Word,
    clamp q S = (if fgt q S then S else if flt q (fneg S) then fneg S else q) ∧
    (isNaN q = true ∨ isNaN S = true ∨ S = 0x7F800000#32 → clamp q S = q) ∧
    (isNaN q = false → isFinite S = true → 0 ≤ valueOf S →
      -valueOf S ≤ valueOf (clamp q S) ∧ valueOf (clamp q S) ≤ valueOf S ∧
      (-valueOf S ≤ valueOf q → valueOf q ≤ valueOf S → clamp q S = q)) ∧
    (isNaN q = false → isNaN S = false → valueOf S < 0 →
      clamp q S = if valueOf S < valueOf q then S else fneg S)

/-- Saturation (43_pid.md R124): where SAT is finite and not negative, `e*dt` is finite and not zero, and INTEG is the
bound of the sign of `e*dt`, a PIDT.CALC leaves INTEG at exactly that bound. -/
def Obligations.SaturatedIntegralStaysAtTheBound : Prop :=
  ∀ (s : State) (i : Byte) (c : PidtInst) (e dt : Word), s.port = .r → i.toNat < s.params.nPidt →
    s.pidt[i.toNat]? = some c → isFinite c.sat = true → 0 ≤ valueOf c.sat →
    isFinite (fmul 0 e dt) = true → valueOf (fmul 0 e dt) ≠ 0 →
    c.integ = (if 0 < valueOf (fmul 0 e dt) then c.sat else fneg c.sat) →
      ∃ t : State, exec (.pidtCalc i 0 e dt) s = .next t ∧ t.pidt[i.toNat]?.map (·.integ) = some c.integ

/-- A NaN in a feedback word stays (70_reset_and_hazards.md R169): the next output of that instance is a NaN, and a
feedback word holds a NaN again. A NaN in S1 of an active BIQ section passes to S0, and the output after that is a NaN:
by 41_biquad.md R93 the one output before it can be a number (log 18). -/
def Obligations.NaNsPersistInFeedbackWords : Prop :=
  ∀ (s : State) (i : Byte) (x dt : Word), s.port = .r →
    (∀ c, i.toNat < s.params.nCf1 → s.cf1[i.toNat]? = some c → isNaN c.yprev = true →
      ∃ t t', exec (.cf1SampleAcc i 0 x) s = .next t ∧ exec (.cf1SampleGyr i 0 x) s = .next t' ∧
        isNaN t.rResp.d0 = true ∧ t.cf1[i.toNat]?.map (isNaN ·.yprev) = some true ∧
        isNaN t'.rResp.d0 = true ∧ t'.cf1[i.toNat]?.map (isNaN ·.yprev) = some true) ∧
    (∀ c, i.toNat < s.params.nCf2 → s.cf2[i.toNat]? = some c → isNaN c.y1 = true ∨ isNaN c.y2 = true →
      ∃ t t', exec (.cf2SampleAcc i 0 x) s = .next t ∧ exec (.cf2SampleGyr i 0 x) s = .next t' ∧
        isNaN t.rResp.d0 = true ∧ t.cf2[i.toNat]?.map (isNaN ·.y1) = some true ∧
        isNaN t'.rResp.d0 = true ∧ t'.cf2[i.toNat]?.map (isNaN ·.y1) = some true) ∧
    (∀ c, i.toNat < s.params.nPidd → s.pidd[i.toNat]? = some c → isNaN c.uprev = true →
      ∃ t, exec (.piddCalc i 0 x) s = .next t ∧ isNaN t.rResp.d0 = true ∧
        t.pidd[i.toNat]?.map (isNaN ·.uprev) = some true) ∧
    (∀ c, i.toNat < s.params.nPidt → s.pidt[i.toNat]? = some c → isNaN c.integ = true →
      ∃ t, exec (.pidtCalc i 0 x dt) s = .next t ∧ isNaN t.rResp.d0 = true ∧
        t.pidt[i.toNat]?.map (isNaN ·.integ) = some true) ∧
    (∀ b j c, i.toNat < s.params.nBiq → s.biq[i.toNat]? = some b → b.nsec.toNat ≤ b.secs.length →
      j < b.nsec.toNat → b.secs[j]? = some c → isNaN c.s0 = true →
      ∃ t, exec (.biqSample i 0 x) s = .next t ∧ isNaN t.rResp.d0 = true ∧
        t.biq[i.toNat]?.map (fun b' => b'.secs[j]?.map fun c' => isNaN c'.s0 && isNaN c'.s1) = some (some true)) ∧
    (∀ b j c, i.toNat < s.params.nBiq → s.biq[i.toNat]? = some b → b.nsec.toNat ≤ b.secs.length →
      j < b.nsec.toNat → b.secs[j]? = some c → isNaN c.s1 = true →
      ∃ t, exec (.biqSample i 0 x) s = .next t ∧
        t.biq[i.toNat]?.map (fun b' => b'.secs[j]?.map fun c' => isNaN c'.s0) = some (some true) ∧
        ∀ x', ∃ t', exec (.biqSample i 0 x') t = .next t' ∧ isNaN t'.rResp.d0 = true ∧
          t'.biq[i.toNat]?.map (fun b' => b'.secs[j]?.map fun c' => isNaN c'.s0 && isNaN c'.s1) = some (some true))

/-! ### Binary32 -/

/-- `fadd` is the sum rounded once to nearest, ties to even (00_scope.md R10). Where the exact sum lies below `top`,
half-way from the largest finite magnitude to 2^128, the result is finite, no finite number is nearer to the exact sum,
and where another one is as near the result's significand is even. Values are counted in units of 2^-149. From `top` on
the result is an infinity (`SpecialValuesOfThePrimitives`). -/
def Obligations.FaddRoundsToNearestEven : Prop :=
  ∀ (k : Nat) (a b c : Word), isFinite a = true → isFinite b = true → isFinite c = true →
    let top : Nat := (2 ^ 25 - 1) * 2 ^ 252
    let exact := valueOf a + valueOf b
    exact.natAbs < top →
      let err := (valueOf (fadd k a b) - exact).natAbs
      isFinite (fadd k a b) = true ∧ err ≤ (valueOf c - exact).natAbs ∧
      (err = (valueOf c - exact).natAbs → valueOf c ≠ valueOf (fadd k a b) → fracOf (fadd k a b) % 2 = 0)

/-- `fmul` is the product rounded once to nearest, ties to even (00_scope.md R10), and finite where the exact product
lies below `top`; distances are counted in units of 2^-298, in which the product of two finite numbers is whole. -/
def Obligations.FmulRoundsToNearestEven : Prop :=
  ∀ (k : Nat) (a b c : Word), isFinite a = true → isFinite b = true → isFinite c = true →
    let top : Nat := (2 ^ 25 - 1) * 2 ^ 252
    unitsOf a * unitsOf b < top * 2 ^ 149 →
      let exact := valueOf a * valueOf b
      let err := (valueOf (fmul k a b) * 2 ^ 149 - exact).natAbs
      isFinite (fmul k a b) = true ∧ err ≤ (valueOf c * 2 ^ 149 - exact).natAbs ∧
      (err = (valueOf c * 2 ^ 149 - exact).natAbs → valueOf c ≠ valueOf (fmul k a b) → fracOf (fmul k a b) % 2 = 0)

/-- `fdiv` is the quotient rounded once to nearest, ties to even (00_scope.md R10), for a divisor that is not zero, and
finite where the exact quotient lies below `top`; distances are multiplied by the divisor, which makes them whole. -/
def Obligations.FdivRoundsToNearestEven : Prop :=
  ∀ (k : Nat) (a b c : Word), isFinite a = true → isFinite b = true → isFinite c = true → isZero b = false →
    let top : Nat := (2 ^ 25 - 1) * 2 ^ 252
    unitsOf a * 2 ^ 149 < top * unitsOf b →
      let exact := valueOf a * 2 ^ 149
      let err := (valueOf (fdiv k a b) * valueOf b - exact).natAbs
      isFinite (fdiv k a b) = true ∧ err ≤ (valueOf c * valueOf b - exact).natAbs ∧
      (err = (valueOf c * valueOf b - exact).natAbs → valueOf c ≠ valueOf (fdiv k a b) →
        fracOf (fdiv k a b) % 2 = 0)

/-- The special values of 00_scope.md R11, with the sign of every zero result: of a sum or difference of two zeros or of
opposite numbers, and of a product or quotient, whichever operand or underflow makes it a zero, and an infinity beside an operand that is none, by the IEEE 754 operations of R10 (R11's line on exact zero differences is read as IEEE 754 has it and as
43_pid.md R115 uses it: -0 minus +0 is -0, log 17). -/
def Obligations.SpecialValuesOfThePrimitives : Prop :=
  ∀ (k : Nat) (a b : Word),
    let odd := signOf a != signOf b
    let top : Nat := (2 ^ 25 - 1) * 2 ^ 252
    (isNaN a = true ∨ isNaN b = true →
      isNaN (fadd k a b) = true ∧ isNaN (fsub k a b) = true ∧ isNaN (fmul k a b) = true ∧
      isNaN (fdiv k a b) = true) ∧
    (isInf a = true → isInf b = true →
      (odd = true → isNaN (fadd k a b) = true) ∧ (odd = false → isNaN (fsub k a b) = true) ∧
      isNaN (fdiv k a b) = true) ∧
    (isInf a = true → isInf b = true →
      (odd = false → fadd k a b = a) ∧ (odd = true → fsub k a b = a)) ∧
    (isInf a = true → isFinite b = true →
      fadd k a b = a ∧ fadd k b a = a ∧ fsub k a b = a ∧ fsub k b a = fneg a ∧
      fdiv k a b = if odd then 0xFF800000#32 else 0x7F800000#32) ∧
    (isInf a = true → isNaN b = false → isZero b = false →
      fmul k a b = (if odd then 0xFF800000#32 else 0x7F800000#32) ∧
      fmul k b a = if odd then 0xFF800000#32 else 0x7F800000#32) ∧
    (isZero a = true → isInf b = true → isNaN (fmul k a b) = true ∧ isNaN (fmul k b a) = true) ∧
    (isZero a = true → isZero b = true → isNaN (fdiv k a b) = true) ∧
    (isZero a = false → isNaN a = false → isZero b = true →
      fdiv k a b = if odd then 0xFF800000#32 else 0x7F800000#32) ∧
    (isFinite a = true → isFinite b = true → top ≤ (valueOf a + valueOf b).natAbs →
      fadd k a b = if valueOf a + valueOf b < 0 then 0xFF800000#32 else 0x7F800000#32) ∧
    (isFinite a = true → isFinite b = true → top ≤ (valueOf a - valueOf b).natAbs →
      fsub k a b = if valueOf a - valueOf b < 0 then 0xFF800000#32 else 0x7F800000#32) ∧
    (isFinite a = true → isFinite b = true → top * 2 ^ 149 ≤ unitsOf a * unitsOf b →
      fmul k a b = if odd then 0xFF800000#32 else 0x7F800000#32) ∧
    (isFinite a = true → isFinite b = true → isZero b = false → top * unitsOf b ≤ unitsOf a * 2 ^ 149 →
      fdiv k a b = if odd then 0xFF800000#32 else 0x7F800000#32) ∧
    (isFinite a = true → isFinite b = true → odd = true → valueOf a + valueOf b = 0 → fadd k a b = 0#32) ∧
    (isFinite a = true → fsub k a a = 0#32) ∧
    (isZero a = true → isZero b = true →
      fadd k a b = (if signOf a && signOf b then 0x80000000#32 else 0#32) ∧
      fsub k a b = (if signOf a && !signOf b then 0x80000000#32 else 0#32)) ∧
    (isFinite a = true → isFinite b = true →
      (isZero (fadd k a b) = true → valueOf a + valueOf b = 0) ∧
      (isZero (fsub k a b) = true → valueOf a - valueOf b = 0)) ∧
    (fadd k 0x80000000#32 0x80000000#32 = 0x80000000#32 ∧ fsub k 0x80000000#32 0x00000000#32 = 0x80000000#32) ∧
    (isZero (fmul k a b) = true → signOf (fmul k a b) = odd) ∧
    (isZero (fdiv k a b) = true → signOf (fdiv k a b) = odd) ∧
    (isZero a = true → isFinite b = true → isZero (fmul k a b) = true ∧ signOf (fmul k a b) = odd) ∧
    (isFinite a = true → isZero b = true → isZero (fmul k a b) = true ∧ signOf (fmul k a b) = odd) ∧
    (isFinite a = true → isFinite b = true → 2 * (unitsOf a * unitsOf b) ≤ 2 ^ 149 →
      isZero (fmul k a b) = true ∧ signOf (fmul k a b) = odd) ∧
    (isZero a = true → isNaN b = false → isZero b = false →
      isZero (fdiv k a b) = true ∧ signOf (fdiv k a b) = odd) ∧
    (isFinite a = true → isInf b = true → isZero (fdiv k a b) = true ∧ signOf (fdiv k a b) = odd) ∧
    (isFinite a = true → isFinite b = true → isZero b = false → 2 * (unitsOf a * 2 ^ 149) ≤ unitsOf b →
      isZero (fdiv k a b) = true ∧ signOf (fdiv k a b) = odd)

/-- A NaN result is a quiet NaN in every primitive (00_scope.md R12: exponent bits all ones and bit 22 set; the other
bits are free). -/
def Obligations.NaNResultsAreQuiet : Prop :=
  ∀ (k : Nat) (a b r : Word), r = fadd k a b ∨ r = fsub k a b ∨ r = fmul k a b ∨ r = fdiv k a b →
    isNaN r = true → r.extractLsb' 23 8 = 0xFF#8 ∧ r.getLsbD 22 = true

/-- `fneg` flips bit 31 and no other, on every pattern; `fgt` and `flt` are the orders of the values, false for a NaN
(00_scope.md R10). -/
def Obligations.NegationAndComparisonAreExact : Prop :=
  ∀ a b : Word,
    (fneg a).getLsbD 31 = !(a.getLsbD 31) ∧ (∀ j, j < 31 → (fneg a).getLsbD j = a.getLsbD j) ∧
    (isNaN a = true ∨ isNaN b = true → fgt a b = false ∧ flt a b = false) ∧
    (isNaN a = false → isNaN b = false →
      (fgt a b = true ↔ valueOf b < valueOf a) ∧ (flt a b = true ↔ valueOf a < valueOf b))

/-- `fsub` is the difference rounded once to nearest, ties to even (00_scope.md R10), and finite where the exact
difference lies below `top`, as in `FaddRoundsToNearestEven`. -/
def Obligations.FsubRoundsToNearestEven : Prop :=
  ∀ (k : Nat) (a b c : Word), isFinite a = true → isFinite b = true → isFinite c = true →
    let top : Nat := (2 ^ 25 - 1) * 2 ^ 252
    let exact := valueOf a - valueOf b
    exact.natAbs < top →
      let err := (valueOf (fsub k a b) - exact).natAbs
      isFinite (fsub k a b) = true ∧ err ≤ (valueOf c - exact).natAbs ∧
      (err = (valueOf c - exact).natAbs → valueOf c ≠ valueOf (fsub k a b) → fracOf (fsub k a b) % 2 = 0)
end

