-- ==== Sys2Proof/Laws/Binary32.lean ====
section
/-! SUPPORT. The small lemmas of the binary32 primitives: the fields of the patterns they build, and NaN operands. -/
namespace Sys2Proof.Machine

/-- The NaN of a primitive is a NaN, whatever the free bits are (00_scope.md R12). -/
@[simp] theorem isNaN_drawNaN (k : Nat) : isNaN (drawNaN k) = true := by
  have he : (drawNaN k).extractLsb' 23 8 = 255#8 := by
    simp only [drawNaN]; generalize Config.nanDraw k = d
    ext i hi
    simp only [BitVec.getElem_extractLsb', BitVec.getLsbD_append]
    have h1 : ¬ 23 + i < 22 := by omega
    have h2 : 23 + i - 22 < 9 := by omega
    simp only [h1, if_false, h2, if_true]
    have : ∀ j < 8, (0x1FF#9).getLsbD (23 + j - 22) = (255#8).getLsbD j := by decide
    rw [this i hi, BitVec.getLsbD_eq_getElem hi]
  have hf : (drawNaN k).getLsbD 22 = true := by
    simp only [drawNaN, BitVec.getLsbD_append]; simp
  have h2 : ((drawNaN k).extractLsb' 0 23).getLsbD 22 = true := by
    simp [hf]
  have h3 : fracOf (drawNaN k) ≠ 0 := by
    intro h
    have : (drawNaN k).extractLsb' 0 23 = 0 := by
      apply BitVec.eq_of_toNat_eq; simpa [fracOf] using h
    rw [this] at h2; simp at h2
  simp [isNaN, expoOf, he, h3]

theorem fadd_nan_left (k : Nat) (a b : Word) (h : isNaN a = true) : fadd k a b = drawNaN k := by simp [fadd, h]

theorem fadd_nan_right (k : Nat) (a b : Word) (h : isNaN b = true) : fadd k a b = drawNaN k := by simp [fadd, h]

theorem fmul_nan_left (k : Nat) (a b : Word) (h : isNaN a = true) : fmul k a b = drawNaN k := by simp [fmul, h]

theorem fmul_nan_right (k : Nat) (a b : Word) (h : isNaN b = true) : fmul k a b = drawNaN k := by simp [fmul, h]

theorem fdiv_nan_left (k : Nat) (a b : Word) (h : isNaN a = true) : fdiv k a b = drawNaN k := by simp [fdiv, h]

theorem fdiv_nan_right (k : Nat) (a b : Word) (h : isNaN b = true) : fdiv k a b = drawNaN k := by simp [fdiv, h]

/-- The exponent and the fraction do not see the sign, which is all that `fneg` changes (00_scope.md R10). -/
@[simp] theorem expoOf_fneg (a : Word) : expoOf (fneg a) = expoOf a := by
  have : (fneg a).extractLsb' 23 8 = a.extractLsb' 23 8 := by
    ext i hi
    simp only [fneg, BitVec.getElem_extractLsb', BitVec.getLsbD_xor]
    have : ∀ j < 8, (0x80000000#32).getLsbD (23 + j) = false := by decide
    simp [this i hi]
  simp [expoOf, this]

@[simp] theorem fracOf_fneg (a : Word) : fracOf (fneg a) = fracOf a := by
  have : (fneg a).extractLsb' 0 23 = a.extractLsb' 0 23 := by
    ext i hi
    simp only [fneg, BitVec.getElem_extractLsb', BitVec.getLsbD_xor]
    have : ∀ j < 23, (0x80000000#32).getLsbD j = false := by decide
    simp [this i hi]
  simp [fracOf, this]

@[simp] theorem signOf_fneg (a : Word) : signOf (fneg a) = !signOf a := by
  simp [signOf, fneg]

@[simp] theorem isNaN_fneg (a : Word) : isNaN (fneg a) = isNaN a := by simp [isNaN]

@[simp] theorem isInf_fneg (a : Word) : isInf (fneg a) = isInf a := by simp [isInf]

@[simp] theorem isFinite_fneg (a : Word) : isFinite (fneg a) = isFinite a := by simp [isFinite]

@[simp] theorem isZero_fneg (a : Word) : isZero (fneg a) = isZero a := by simp [isZero]

@[simp] theorem unitsOf_fneg (a : Word) : unitsOf (fneg a) = unitsOf a := by simp [unitsOf]

@[simp] theorem valueOf_fneg (a : Word) : valueOf (fneg a) = -valueOf a := by
  cases h : signOf a <;> simp [valueOf, h]

/-- The sign of a packed pattern. -/
@[simp] theorem signOf_packSign (neg : Bool) (mag : Nat) : signOf (packSign neg mag) = neg := by
  unfold signOf packSign
  rw [BitVec.getLsbD_append]
  cases neg <;> rfl

/-- The low 31 bits of a packed pattern: exponent and fraction. -/
theorem toNat_packSign (neg : Bool) (mag : Nat) (h : mag < 2 ^ 31) :
    (packSign neg mag).toNat = (if neg then 2 ^ 31 else 0) + mag := by
  unfold packSign
  rw [BitVec.toNat_append, ← Nat.shiftLeft_add_eq_or_of_lt (by rw [BitVec.toNat_ofNat]; exact Nat.mod_lt _ (by decide)),
    BitVec.toNat_ofNat, Nat.mod_eq_of_lt h, Nat.shiftLeft_eq]
  cases neg <;> simp

theorem expoOf_eq (a : Word) : expoOf a = a.toNat / 2 ^ 23 % 256 := by
  simp [expoOf, BitVec.extractLsb'_toNat, Nat.shiftRight_eq_div_pow]

theorem fracOf_eq (a : Word) : fracOf a = a.toNat % 2 ^ 23 := by
  simp [fracOf, BitVec.extractLsb'_toNat]

theorem expoOf_packSign (neg : Bool) (mag : Nat) (h : mag < 2 ^ 31) : expoOf (packSign neg mag) = mag / 2 ^ 23 := by
  rw [expoOf_eq, toNat_packSign neg mag h]
  cases neg
  · simp; omega
  · simp; omega

theorem fracOf_packSign (neg : Bool) (mag : Nat) (h : mag < 2 ^ 31) : fracOf (packSign neg mag) = mag % 2 ^ 23 := by
  rw [fracOf_eq, toNat_packSign neg mag h]
  cases neg
  · simp
  · simp; omega

/-- A rounded magnitude is a finite number's or the infinity's (00_scope.md R11). -/
theorem roundMag_le (num den : Nat) : roundMag num den ≤ 0x7F800000 := by
  unfold roundMag; exact Nat.min_le_right _ _

/-- A rounded whole number is one of the two next to the fraction. -/
theorem roundDiv_bounds (num den : Nat) : num / den ≤ roundDiv num den ∧ roundDiv num den ≤ num / den + 1 := by
  unfold roundDiv
  constructor
  · simp only []; split <;> omega
  · simp only []; split <;> omega

end Sys2Proof.Machine
end

