-- ==== Sys2Proof/Laws/State.lean ====
section
/-! SUPPORT. One lemma per field per state update, true by unfolding once, so that no later proof unfolds one. -/
namespace Sys2Proof.Machine

@[simp] theorem State.setDb_params (s : State) (i : Byte) (d : DbInst) : (s.setDb i d).params = s.params := rfl
@[simp] theorem State.setDb_db (s : State) (i : Byte) (d : DbInst) : (s.setDb i d).db = s.db.set i.toNat d := rfl
@[simp] theorem State.setDb_biq (s : State) (i : Byte) (d : DbInst) : (s.setDb i d).biq = s.biq := rfl
@[simp] theorem State.setDb_cf1 (s : State) (i : Byte) (d : DbInst) : (s.setDb i d).cf1 = s.cf1 := rfl
@[simp] theorem State.setDb_cf2 (s : State) (i : Byte) (d : DbInst) : (s.setDb i d).cf2 = s.cf2 := rfl
@[simp] theorem State.setDb_pidd (s : State) (i : Byte) (d : DbInst) : (s.setDb i d).pidd = s.pidd := rfl
@[simp] theorem State.setDb_pidt (s : State) (i : Byte) (d : DbInst) : (s.setDb i d).pidt = s.pidt := rfl
@[simp] theorem State.setDb_status (s : State) (i : Byte) (d : DbInst) : (s.setDb i d).status = s.status := rfl
@[simp] theorem State.setDb_port (s : State) (i : Byte) (d : DbInst) : (s.setDb i d).port = s.port := rfl
@[simp] theorem State.setDb_rResp (s : State) (i : Byte) (d : DbInst) : (s.setDb i d).rResp = s.rResp := rfl
@[simp] theorem State.setDb_wResp (s : State) (i : Byte) (d : DbInst) : (s.setDb i d).wResp = s.wResp := rfl
@[simp] theorem State.setDb_inputs (s : State) (i : Byte) (d : DbInst) : (s.setDb i d).inputs = s.inputs := rfl
@[simp] theorem State.setDb_draws (s : State) (i : Byte) (d : DbInst) : (s.setDb i d).draws = s.draws := rfl

@[simp] theorem State.setBiq_params (s : State) (i : Byte) (d : BiqInst) : (s.setBiq i d).params = s.params := rfl
@[simp] theorem State.setBiq_db (s : State) (i : Byte) (d : BiqInst) : (s.setBiq i d).db = s.db := rfl
@[simp] theorem State.setBiq_biq (s : State) (i : Byte) (d : BiqInst) : (s.setBiq i d).biq = s.biq.set i.toNat d := rfl
@[simp] theorem State.setBiq_cf1 (s : State) (i : Byte) (d : BiqInst) : (s.setBiq i d).cf1 = s.cf1 := rfl
@[simp] theorem State.setBiq_cf2 (s : State) (i : Byte) (d : BiqInst) : (s.setBiq i d).cf2 = s.cf2 := rfl
@[simp] theorem State.setBiq_pidd (s : State) (i : Byte) (d : BiqInst) : (s.setBiq i d).pidd = s.pidd := rfl
@[simp] theorem State.setBiq_pidt (s : State) (i : Byte) (d : BiqInst) : (s.setBiq i d).pidt = s.pidt := rfl
@[simp] theorem State.setBiq_status (s : State) (i : Byte) (d : BiqInst) : (s.setBiq i d).status = s.status := rfl
@[simp] theorem State.setBiq_port (s : State) (i : Byte) (d : BiqInst) : (s.setBiq i d).port = s.port := rfl
@[simp] theorem State.setBiq_rResp (s : State) (i : Byte) (d : BiqInst) : (s.setBiq i d).rResp = s.rResp := rfl
@[simp] theorem State.setBiq_wResp (s : State) (i : Byte) (d : BiqInst) : (s.setBiq i d).wResp = s.wResp := rfl
@[simp] theorem State.setBiq_inputs (s : State) (i : Byte) (d : BiqInst) : (s.setBiq i d).inputs = s.inputs := rfl
@[simp] theorem State.setBiq_draws (s : State) (i : Byte) (d : BiqInst) : (s.setBiq i d).draws = s.draws := rfl

@[simp] theorem State.setCf1_params (s : State) (i : Byte) (d : Cf1Inst) : (s.setCf1 i d).params = s.params := rfl
@[simp] theorem State.setCf1_db (s : State) (i : Byte) (d : Cf1Inst) : (s.setCf1 i d).db = s.db := rfl
@[simp] theorem State.setCf1_biq (s : State) (i : Byte) (d : Cf1Inst) : (s.setCf1 i d).biq = s.biq := rfl
@[simp] theorem State.setCf1_cf1 (s : State) (i : Byte) (d : Cf1Inst) : (s.setCf1 i d).cf1 = s.cf1.set i.toNat d := rfl
@[simp] theorem State.setCf1_cf2 (s : State) (i : Byte) (d : Cf1Inst) : (s.setCf1 i d).cf2 = s.cf2 := rfl
@[simp] theorem State.setCf1_pidd (s : State) (i : Byte) (d : Cf1Inst) : (s.setCf1 i d).pidd = s.pidd := rfl
@[simp] theorem State.setCf1_pidt (s : State) (i : Byte) (d : Cf1Inst) : (s.setCf1 i d).pidt = s.pidt := rfl
@[simp] theorem State.setCf1_status (s : State) (i : Byte) (d : Cf1Inst) : (s.setCf1 i d).status = s.status := rfl
@[simp] theorem State.setCf1_port (s : State) (i : Byte) (d : Cf1Inst) : (s.setCf1 i d).port = s.port := rfl
@[simp] theorem State.setCf1_rResp (s : State) (i : Byte) (d : Cf1Inst) : (s.setCf1 i d).rResp = s.rResp := rfl
@[simp] theorem State.setCf1_wResp (s : State) (i : Byte) (d : Cf1Inst) : (s.setCf1 i d).wResp = s.wResp := rfl
@[simp] theorem State.setCf1_inputs (s : State) (i : Byte) (d : Cf1Inst) : (s.setCf1 i d).inputs = s.inputs := rfl
@[simp] theorem State.setCf1_draws (s : State) (i : Byte) (d : Cf1Inst) : (s.setCf1 i d).draws = s.draws := rfl

@[simp] theorem State.setCf2_params (s : State) (i : Byte) (d : Cf2Inst) : (s.setCf2 i d).params = s.params := rfl
@[simp] theorem State.setCf2_db (s : State) (i : Byte) (d : Cf2Inst) : (s.setCf2 i d).db = s.db := rfl
@[simp] theorem State.setCf2_biq (s : State) (i : Byte) (d : Cf2Inst) : (s.setCf2 i d).biq = s.biq := rfl
@[simp] theorem State.setCf2_cf1 (s : State) (i : Byte) (d : Cf2Inst) : (s.setCf2 i d).cf1 = s.cf1 := rfl
@[simp] theorem State.setCf2_cf2 (s : State) (i : Byte) (d : Cf2Inst) : (s.setCf2 i d).cf2 = s.cf2.set i.toNat d := rfl
@[simp] theorem State.setCf2_pidd (s : State) (i : Byte) (d : Cf2Inst) : (s.setCf2 i d).pidd = s.pidd := rfl
@[simp] theorem State.setCf2_pidt (s : State) (i : Byte) (d : Cf2Inst) : (s.setCf2 i d).pidt = s.pidt := rfl
@[simp] theorem State.setCf2_status (s : State) (i : Byte) (d : Cf2Inst) : (s.setCf2 i d).status = s.status := rfl
@[simp] theorem State.setCf2_port (s : State) (i : Byte) (d : Cf2Inst) : (s.setCf2 i d).port = s.port := rfl
@[simp] theorem State.setCf2_rResp (s : State) (i : Byte) (d : Cf2Inst) : (s.setCf2 i d).rResp = s.rResp := rfl
@[simp] theorem State.setCf2_wResp (s : State) (i : Byte) (d : Cf2Inst) : (s.setCf2 i d).wResp = s.wResp := rfl
@[simp] theorem State.setCf2_inputs (s : State) (i : Byte) (d : Cf2Inst) : (s.setCf2 i d).inputs = s.inputs := rfl
@[simp] theorem State.setCf2_draws (s : State) (i : Byte) (d : Cf2Inst) : (s.setCf2 i d).draws = s.draws := rfl

@[simp] theorem State.setPidd_params (s : State) (i : Byte) (d : PiddInst) : (s.setPidd i d).params = s.params := rfl
@[simp] theorem State.setPidd_db (s : State) (i : Byte) (d : PiddInst) : (s.setPidd i d).db = s.db := rfl
@[simp] theorem State.setPidd_biq (s : State) (i : Byte) (d : PiddInst) : (s.setPidd i d).biq = s.biq := rfl
@[simp] theorem State.setPidd_cf1 (s : State) (i : Byte) (d : PiddInst) : (s.setPidd i d).cf1 = s.cf1 := rfl
@[simp] theorem State.setPidd_cf2 (s : State) (i : Byte) (d : PiddInst) : (s.setPidd i d).cf2 = s.cf2 := rfl
@[simp] theorem State.setPidd_pidd (s : State) (i : Byte) (d : PiddInst) : (s.setPidd i d).pidd = s.pidd.set i.toNat d := rfl
@[simp] theorem State.setPidd_pidt (s : State) (i : Byte) (d : PiddInst) : (s.setPidd i d).pidt = s.pidt := rfl
@[simp] theorem State.setPidd_status (s : State) (i : Byte) (d : PiddInst) : (s.setPidd i d).status = s.status := rfl
@[simp] theorem State.setPidd_port (s : State) (i : Byte) (d : PiddInst) : (s.setPidd i d).port = s.port := rfl
@[simp] theorem State.setPidd_rResp (s : State) (i : Byte) (d : PiddInst) : (s.setPidd i d).rResp = s.rResp := rfl
@[simp] theorem State.setPidd_wResp (s : State) (i : Byte) (d : PiddInst) : (s.setPidd i d).wResp = s.wResp := rfl
@[simp] theorem State.setPidd_inputs (s : State) (i : Byte) (d : PiddInst) : (s.setPidd i d).inputs = s.inputs := rfl
@[simp] theorem State.setPidd_draws (s : State) (i : Byte) (d : PiddInst) : (s.setPidd i d).draws = s.draws := rfl

@[simp] theorem State.setPidt_params (s : State) (i : Byte) (d : PidtInst) : (s.setPidt i d).params = s.params := rfl
@[simp] theorem State.setPidt_db (s : State) (i : Byte) (d : PidtInst) : (s.setPidt i d).db = s.db := rfl
@[simp] theorem State.setPidt_biq (s : State) (i : Byte) (d : PidtInst) : (s.setPidt i d).biq = s.biq := rfl
@[simp] theorem State.setPidt_cf1 (s : State) (i : Byte) (d : PidtInst) : (s.setPidt i d).cf1 = s.cf1 := rfl
@[simp] theorem State.setPidt_cf2 (s : State) (i : Byte) (d : PidtInst) : (s.setPidt i d).cf2 = s.cf2 := rfl
@[simp] theorem State.setPidt_pidd (s : State) (i : Byte) (d : PidtInst) : (s.setPidt i d).pidd = s.pidd := rfl
@[simp] theorem State.setPidt_pidt (s : State) (i : Byte) (d : PidtInst) : (s.setPidt i d).pidt = s.pidt.set i.toNat d := rfl
@[simp] theorem State.setPidt_status (s : State) (i : Byte) (d : PidtInst) : (s.setPidt i d).status = s.status := rfl
@[simp] theorem State.setPidt_port (s : State) (i : Byte) (d : PidtInst) : (s.setPidt i d).port = s.port := rfl
@[simp] theorem State.setPidt_rResp (s : State) (i : Byte) (d : PidtInst) : (s.setPidt i d).rResp = s.rResp := rfl
@[simp] theorem State.setPidt_wResp (s : State) (i : Byte) (d : PidtInst) : (s.setPidt i d).wResp = s.wResp := rfl
@[simp] theorem State.setPidt_inputs (s : State) (i : Byte) (d : PidtInst) : (s.setPidt i d).inputs = s.inputs := rfl
@[simp] theorem State.setPidt_draws (s : State) (i : Byte) (d : PidtInst) : (s.setPidt i d).draws = s.draws := rfl

@[simp] theorem State.drew_params (s : State) (n : Nat) : (s.drew n).params = s.params := rfl
@[simp] theorem State.drew_db (s : State) (n : Nat) : (s.drew n).db = s.db := rfl
@[simp] theorem State.drew_biq (s : State) (n : Nat) : (s.drew n).biq = s.biq := rfl
@[simp] theorem State.drew_cf1 (s : State) (n : Nat) : (s.drew n).cf1 = s.cf1 := rfl
@[simp] theorem State.drew_cf2 (s : State) (n : Nat) : (s.drew n).cf2 = s.cf2 := rfl
@[simp] theorem State.drew_pidd (s : State) (n : Nat) : (s.drew n).pidd = s.pidd := rfl
@[simp] theorem State.drew_pidt (s : State) (n : Nat) : (s.drew n).pidt = s.pidt := rfl
@[simp] theorem State.drew_status (s : State) (n : Nat) : (s.drew n).status = s.status := rfl
@[simp] theorem State.drew_port (s : State) (n : Nat) : (s.drew n).port = s.port := rfl
@[simp] theorem State.drew_rResp (s : State) (n : Nat) : (s.drew n).rResp = s.rResp := rfl
@[simp] theorem State.drew_wResp (s : State) (n : Nat) : (s.drew n).wResp = s.wResp := rfl
@[simp] theorem State.drew_inputs (s : State) (n : Nat) : (s.drew n).inputs = s.inputs := rfl
@[simp] theorem State.drew_draws (s : State) (n : Nat) : (s.drew n).draws = s.draws + n := rfl

@[simp] theorem State.serve_params (s : State) (p : Port) : (s.serve p).params = s.params := rfl
@[simp] theorem State.serve_db (s : State) (p : Port) : (s.serve p).db = s.db := rfl
@[simp] theorem State.serve_biq (s : State) (p : Port) : (s.serve p).biq = s.biq := rfl
@[simp] theorem State.serve_cf1 (s : State) (p : Port) : (s.serve p).cf1 = s.cf1 := rfl
@[simp] theorem State.serve_cf2 (s : State) (p : Port) : (s.serve p).cf2 = s.cf2 := rfl
@[simp] theorem State.serve_pidd (s : State) (p : Port) : (s.serve p).pidd = s.pidd := rfl
@[simp] theorem State.serve_pidt (s : State) (p : Port) : (s.serve p).pidt = s.pidt := rfl
@[simp] theorem State.serve_status (s : State) (p : Port) : (s.serve p).status = s.status := rfl
@[simp] theorem State.serve_port (s : State) (p : Port) : (s.serve p).port = p := rfl
@[simp] theorem State.serve_rResp (s : State) (p : Port) : (s.serve p).rResp = s.rResp := rfl
@[simp] theorem State.serve_wResp (s : State) (p : Port) : (s.serve p).wResp = s.wResp := rfl
@[simp] theorem State.serve_inputs (s : State) (p : Port) : (s.serve p).inputs = s.inputs := rfl
@[simp] theorem State.serve_draws (s : State) (p : Port) : (s.serve p).draws = s.draws := rfl

@[simp] theorem State.offer_params (s : State) (e : Event) : (s.offer e).params = s.params := rfl
@[simp] theorem State.offer_db (s : State) (e : Event) : (s.offer e).db = s.db := rfl
@[simp] theorem State.offer_biq (s : State) (e : Event) : (s.offer e).biq = s.biq := rfl
@[simp] theorem State.offer_cf1 (s : State) (e : Event) : (s.offer e).cf1 = s.cf1 := rfl
@[simp] theorem State.offer_cf2 (s : State) (e : Event) : (s.offer e).cf2 = s.cf2 := rfl
@[simp] theorem State.offer_pidd (s : State) (e : Event) : (s.offer e).pidd = s.pidd := rfl
@[simp] theorem State.offer_pidt (s : State) (e : Event) : (s.offer e).pidt = s.pidt := rfl
@[simp] theorem State.offer_status (s : State) (e : Event) : (s.offer e).status = s.status := rfl
@[simp] theorem State.offer_port (s : State) (e : Event) : (s.offer e).port = s.port := rfl
@[simp] theorem State.offer_rResp (s : State) (e : Event) : (s.offer e).rResp = s.rResp := rfl
@[simp] theorem State.offer_wResp (s : State) (e : Event) : (s.offer e).wResp = s.wResp := rfl
@[simp] theorem State.offer_inputs (s : State) (e : Event) : (s.offer e).inputs = e :: s.inputs := rfl
@[simp] theorem State.offer_draws (s : State) (e : Event) : (s.offer e).draws = s.draws := rfl

@[simp] theorem State.respondOn_params (s : State) (p : Port) (r : Resp) : (s.respondOn p r).params = s.params := rfl
@[simp] theorem State.respondOn_db (s : State) (p : Port) (r : Resp) : (s.respondOn p r).db = s.db := rfl
@[simp] theorem State.respondOn_biq (s : State) (p : Port) (r : Resp) : (s.respondOn p r).biq = s.biq := rfl
@[simp] theorem State.respondOn_cf1 (s : State) (p : Port) (r : Resp) : (s.respondOn p r).cf1 = s.cf1 := rfl
@[simp] theorem State.respondOn_cf2 (s : State) (p : Port) (r : Resp) : (s.respondOn p r).cf2 = s.cf2 := rfl
@[simp] theorem State.respondOn_pidd (s : State) (p : Port) (r : Resp) : (s.respondOn p r).pidd = s.pidd := rfl
@[simp] theorem State.respondOn_pidt (s : State) (p : Port) (r : Resp) : (s.respondOn p r).pidt = s.pidt := rfl
@[simp] theorem State.respondOn_status (s : State) (p : Port) (r : Resp) : (s.respondOn p r).status = s.status := rfl
@[simp] theorem State.respondOn_port (s : State) (p : Port) (r : Resp) : (s.respondOn p r).port = s.port := rfl
@[simp] theorem State.respondOn_rResp (s : State) (p : Port) (r : Resp) : (s.respondOn p r).rResp = if p = .r then r else s.rResp := rfl
@[simp] theorem State.respondOn_wResp (s : State) (p : Port) (r : Resp) : (s.respondOn p r).wResp = if p = .w then r else s.wResp := rfl
@[simp] theorem State.respondOn_inputs (s : State) (p : Port) (r : Resp) : (s.respondOn p r).inputs = s.inputs := rfl
@[simp] theorem State.respondOn_draws (s : State) (p : Port) (r : Resp) : (s.respondOn p r).draws = s.draws := rfl

@[simp] theorem State.respond_params (s : State) (r : Resp) : (s.respond r).params = s.params := rfl
@[simp] theorem State.respond_db (s : State) (r : Resp) : (s.respond r).db = s.db := rfl
@[simp] theorem State.respond_biq (s : State) (r : Resp) : (s.respond r).biq = s.biq := rfl
@[simp] theorem State.respond_cf1 (s : State) (r : Resp) : (s.respond r).cf1 = s.cf1 := rfl
@[simp] theorem State.respond_cf2 (s : State) (r : Resp) : (s.respond r).cf2 = s.cf2 := rfl
@[simp] theorem State.respond_pidd (s : State) (r : Resp) : (s.respond r).pidd = s.pidd := rfl
@[simp] theorem State.respond_pidt (s : State) (r : Resp) : (s.respond r).pidt = s.pidt := rfl
@[simp] theorem State.respond_status (s : State) (r : Resp) : (s.respond r).status = s.status := rfl
@[simp] theorem State.respond_port (s : State) (r : Resp) : (s.respond r).port = s.port := rfl
@[simp] theorem State.respond_rResp (s : State) (r : Resp) : (s.respond r).rResp = if s.port = .r then r else s.rResp := rfl
@[simp] theorem State.respond_wResp (s : State) (r : Resp) : (s.respond r).wResp = if s.port = .w then r else s.wResp := rfl
@[simp] theorem State.respond_inputs (s : State) (r : Resp) : (s.respond r).inputs = s.inputs := rfl
@[simp] theorem State.respond_draws (s : State) (r : Resp) : (s.respond r).draws = s.draws := rfl

@[simp] theorem State.raiseIllegal_params (s : State) (c : Cause) : (s.raiseIllegal c).params = s.params := rfl
@[simp] theorem State.raiseIllegal_db (s : State) (c : Cause) : (s.raiseIllegal c).db = s.db := rfl
@[simp] theorem State.raiseIllegal_biq (s : State) (c : Cause) : (s.raiseIllegal c).biq = s.biq := rfl
@[simp] theorem State.raiseIllegal_cf1 (s : State) (c : Cause) : (s.raiseIllegal c).cf1 = s.cf1 := rfl
@[simp] theorem State.raiseIllegal_cf2 (s : State) (c : Cause) : (s.raiseIllegal c).cf2 = s.cf2 := rfl
@[simp] theorem State.raiseIllegal_pidd (s : State) (c : Cause) : (s.raiseIllegal c).pidd = s.pidd := rfl
@[simp] theorem State.raiseIllegal_pidt (s : State) (c : Cause) : (s.raiseIllegal c).pidt = s.pidt := rfl
@[simp] theorem State.raiseIllegal_status (s : State) (c : Cause) : (s.raiseIllegal c).status = recordCause s.port c s.status := rfl
@[simp] theorem State.raiseIllegal_port (s : State) (c : Cause) : (s.raiseIllegal c).port = s.port := rfl
@[simp] theorem State.raiseIllegal_rResp (s : State) (c : Cause) : (s.raiseIllegal c).rResp = if s.port = .r then Resp.ofCause c else s.rResp := rfl
@[simp] theorem State.raiseIllegal_wResp (s : State) (c : Cause) : (s.raiseIllegal c).wResp = if s.port = .w then Resp.ofCause c else s.wResp := rfl
@[simp] theorem State.raiseIllegal_inputs (s : State) (c : Cause) : (s.raiseIllegal c).inputs = s.inputs := rfl
@[simp] theorem State.raiseIllegal_draws (s : State) (c : Cause) : (s.raiseIllegal c).draws = s.draws := rfl

@[simp] theorem State.discardOn_params (s : State) (p : Port) (b : Bool) : (s.discardOn p b).params = s.params := by cases b <;> rfl
@[simp] theorem State.discardOn_db (s : State) (p : Port) (b : Bool) : (s.discardOn p b).db = s.db := by cases b <;> rfl
@[simp] theorem State.discardOn_biq (s : State) (p : Port) (b : Bool) : (s.discardOn p b).biq = s.biq := by cases b <;> rfl
@[simp] theorem State.discardOn_cf1 (s : State) (p : Port) (b : Bool) : (s.discardOn p b).cf1 = s.cf1 := by cases b <;> rfl
@[simp] theorem State.discardOn_cf2 (s : State) (p : Port) (b : Bool) : (s.discardOn p b).cf2 = s.cf2 := by cases b <;> rfl
@[simp] theorem State.discardOn_pidd (s : State) (p : Port) (b : Bool) : (s.discardOn p b).pidd = s.pidd := by cases b <;> rfl
@[simp] theorem State.discardOn_pidt (s : State) (p : Port) (b : Bool) : (s.discardOn p b).pidt = s.pidt := by cases b <;> rfl
@[simp] theorem State.discardOn_status (s : State) (p : Port) (b : Bool) : (s.discardOn p b).status = s.status := by cases b <;> rfl
@[simp] theorem State.discardOn_port (s : State) (p : Port) (b : Bool) : (s.discardOn p b).port = s.port := by cases b <;> rfl
@[simp] theorem State.discardOn_inputs (s : State) (p : Port) (b : Bool) : (s.discardOn p b).inputs = s.inputs := by cases b <;> rfl

@[simp] theorem State.blockReset_params (s : State) (a b : Bool) : (s.blockReset a b).params = s.params := by cases a <;> cases b <;> rfl
@[simp] theorem State.blockReset_db (s : State) (a b : Bool) : (s.blockReset a b).db = List.replicate s.params.nDb (DbInst.zero s.params.dbSlotWords) := by cases a <;> cases b <;> rfl
@[simp] theorem State.blockReset_biq (s : State) (a b : Bool) : (s.blockReset a b).biq = List.replicate s.params.nBiq (BiqInst.zero s.params.biqMaxSec) := by cases a <;> cases b <;> rfl
@[simp] theorem State.blockReset_cf1 (s : State) (a b : Bool) : (s.blockReset a b).cf1 = List.replicate s.params.nCf1 Cf1Inst.zero := by cases a <;> cases b <;> rfl
@[simp] theorem State.blockReset_cf2 (s : State) (a b : Bool) : (s.blockReset a b).cf2 = List.replicate s.params.nCf2 Cf2Inst.zero := by cases a <;> cases b <;> rfl
@[simp] theorem State.blockReset_pidd (s : State) (a b : Bool) : (s.blockReset a b).pidd = List.replicate s.params.nPidd PiddInst.zero := by cases a <;> cases b <;> rfl
@[simp] theorem State.blockReset_pidt (s : State) (a b : Bool) : (s.blockReset a b).pidt = List.replicate s.params.nPidt PidtInst.zero := by cases a <;> cases b <;> rfl
@[simp] theorem State.blockReset_status (s : State) (a b : Bool) : (s.blockReset a b).status = 0 := by cases a <;> cases b <;> rfl
@[simp] theorem State.blockReset_port (s : State) (a b : Bool) : (s.blockReset a b).port = s.port := by cases a <;> cases b <;> rfl
@[simp] theorem State.blockReset_inputs (s : State) (a b : Bool) : (s.blockReset a b).inputs = s.inputs := by cases a <;> cases b <;> rfl

end Sys2Proof.Machine
end

