-- ==== Sys2Proof/Laws/Ops.lean ====
section
/-! SUPPORT. What each shared operation does, said once: the legality checks, the outcome of a command, the record of
an illegal command in STATUS, the response word, the next event. -/
namespace Sys2Proof.Machine

/-! ### Outcomes -/

/-- A command's outcome is a next state: IllegalCommand by its first failing check, or its effect. -/
theorem conclude_eq (s : State) (cs : List (Bool × Cause)) (t : State) :
    s.conclude cs t = .next ((firstFailing cs).elim t s.raiseIllegal) := by
  unfold State.conclude
  cases firstFailing cs <;> rfl

/-- If a command's outcome is the next state `u`, either a check failed and `u` is the illegal command's state, or
none did and `u` is the state of its effect. -/
theorem conclude_cases {s t u : State} {cs : List (Bool × Cause)} (h : s.conclude cs t = .next u) :
    (∃ c, firstFailing cs = some c ∧ u = s.raiseIllegal c) ∨ (firstFailing cs = none ∧ u = t) := by
  rw [conclude_eq] at h
  cases hc : firstFailing cs with
  | none => right; simpa [hc, eq_comm] using h
  | some c => left; exact ⟨c, rfl, by simpa [hc, eq_comm] using h⟩

/-- A command that passes every check has its effect. -/
theorem conclude_legal {s t : State} {cs : List (Bool × Cause)} (h : firstFailing cs = none) :
    s.conclude cs t = .next t := by
  rw [conclude_eq, h]; rfl

/-- A command that fails a check raises IllegalCommand with the first one's cause. -/
theorem conclude_illegal {s t : State} {cs : List (Bool × Cause)} {c : Cause} (h : firstFailing cs = some c) :
    s.conclude cs t = .next (s.raiseIllegal c) := by
  rw [conclude_eq, h]; rfl

/-! ### Checks -/

@[simp] theorem firstFailing_nil : firstFailing [] = none := rfl

@[simp] theorem firstFailing_cons (b : Bool) (c : Cause) (rest : List (Bool × Cause)) :
    firstFailing ((b, c) :: rest) = if b then some c else firstFailing rest := rfl

/-- Checks 4 to 6 of a command that does not use IDX, in the order of 60_exceptions.md R139. -/
theorem firstFailing_opChecks (s : State) (p : Port) (n : Nat) (inst idx : Byte) :
    firstFailing (s.opChecks p n inst idx) =
      if s.port ≠ p then some .wrongPort
      else if n ≤ inst.toNat then some .badInst
      else if idx ≠ 0 then some .badIdx
      else none := by
  simp [State.opChecks, State.portCheck, instCheck, idxCheck]

/-- Checks 4 to 6 of an RREG, in the order of 60_exceptions.md R139. -/
theorem firstFailing_rregChecks (s : State) (n : Nat) (inst : Byte) (named : Option RegClass) :
    firstFailing (s.rregChecks n inst named) =
      if s.port ≠ .r then some .wrongPort
      else if n ≤ inst.toNat then some .badInst
      else if named.isNone then some .badIdx
      else none := by
  simp [State.rregChecks, State.portCheck, instCheck]

/-- Checks 4 to 6 of a WREG followed by those of `more`, in the order of 60_exceptions.md R139. -/
theorem firstFailing_wregChecks (s : State) (n : Nat) (inst : Byte) (named : Option RegClass)
    (more : List (Bool × Cause)) :
    firstFailing (s.wregChecks n inst named ++ more) =
      if s.port ≠ .r then some .wrongPort
      else if n ≤ inst.toNat then some .badInst
      else if named.isNone then some .badIdx
      else if named ≠ some .rw then some .roReg
      else firstFailing more := by
  simp [State.wregChecks, State.portCheck, instCheck]

/-- A legal command that does not use IDX is on its port, names an instance that exists, and has IDX 0. -/
theorem opChecks_pass {s : State} {p : Port} {n : Nat} {inst idx : Byte} :
    firstFailing (s.opChecks p n inst idx) = none ↔ s.port = p ∧ inst.toNat < n ∧ idx = 0 := by
  rw [firstFailing_opChecks]
  by_cases h1 : s.port = p
  · by_cases h2 : n ≤ inst.toNat
    · simp [h1, h2]
    · by_cases h3 : idx = 0 <;> simp [h1, h2, h3] <;> omega
  · simp [h1]

/-! ### Responses -/

/-- A legal command's response: ILL, CAUSE, NEW and SLOT are 0 (30_encoding.md R63). -/
@[simp] theorem flagsWord_quiet : flagsWord false 0#4 false false = 0#32 := by decide

theorem ofData_eq (d0 d1 : Word) : Resp.ofData d0 d1 = { flags := 0, d0 := d0, d1 := d1 } := by
  simp [Resp.ofData]

@[simp] theorem ofData_ill (d0 d1 : Word) : (Resp.ofData d0 d1).ill = false := by simp [Resp.ofData, Resp.ill]

@[simp] theorem ofCause_ill (c : Cause) : (Resp.ofCause c).ill = true := by cases c <;> decide

@[simp] theorem ofCause_cause (c : Cause) : (Resp.ofCause c).cause = causeCode c := by cases c <;> decide

@[simp] theorem ofCause_data (c : Cause) : (Resp.ofCause c).d0 = 0 ∧ (Resp.ofCause c).d1 = 0 := ⟨rfl, rfl⟩

theorem causeCode_range (c : Cause) : 1 ≤ (causeCode c).toNat ∧ (causeCode c).toNat ≤ 8 := by
  cases c <;> decide

/-- Raising IllegalCommand changes STATUS and the response of the port in service, and nothing else
(60_exceptions.md R140). -/
theorem raiseIllegal_eq (s : State) (c : Cause) : s.raiseIllegal c = afterIllegal s c := by
  have h : Resp.ofCause c = illegalResp c := by cases c <;> decide
  unfold State.raiseIllegal afterIllegal State.respond State.respondOn
  rw [h]

/-- Answering a command changes the response of the port in service, and nothing else (30_encoding.md R60). -/
theorem respond_eq (s : State) (r : Resp) :
    s.respond r =
      { s with rResp := if s.port = .r then r else s.rResp, wResp := if s.port = .w then r else s.wResp } := rfl

/-! ### The cascade -/

/-- A cascade keeps the number of sections (41_biquad.md R93). -/
theorem cascade_length (k : Nat) (v : Word) (n : Nat) (secs : List Section) :
    (cascade k v n secs).1.length = secs.length := by
  induction secs generalizing k v n with
  | nil => cases n <;> rfl
  | cons c rest ih => cases n <;> simp [cascade, ih]

/-- The index `0x08+8j+k` names register `k` of section `j` (10_state.md R26). -/
theorem biqReg_section (m j k : Nat) (hj : j < m) (h31 : j < 31) (hk : k < 7) :
    biqReg m (BitVec.ofNat 8 (8 + 8 * j + k)) = (secReg k).map (BiqReg.sec j) := by
  have h : (BitVec.ofNat 8 (8 + 8 * j + k)).toNat = 8 + 8 * j + k := by rw [BitVec.toNat_ofNat]; omega
  simp only [biqReg, h]
  rw [if_neg (by omega), if_neg (by omega), if_neg (by omega), if_pos (by omega),
    show (8 + 8 * j + k - 8) % 8 = k by omega, show (8 + 8 * j + k - 8) / 8 = j by omega]

/-! ### STATUS -/

/-- A port whose sticky bit is set keeps STATUS as it is (60_exceptions.md R141). -/
theorem recordCause_kept {p : Port} {c : Cause} {st : Word} (h : statusIll p st = true) :
    recordCause p c st = st := by
  simp [recordCause, h]

/-- A bit of STATUS after a record: outside the port's sticky bit and cause field nothing changes. -/
theorem recordCause_getLsbD_r (c : Cause) (st : Word) (h : statusIll .r st = false) (i : Nat) :
    (recordCause .r c st).getLsbD i =
      if i = 0 then true
      else if 8 ≤ i ∧ i < 12 then (causeCode c).getLsbD (i - 8)
      else st.getLsbD i := by
  have hm : ∀ j < 32, (0xFFFFF0FF#32).getLsbD j = !(decide (8 ≤ j) && decide (j < 12)) := by decide
  have h1 : ∀ j < 32, (1#32).getLsbD j = decide (j = 0) := by decide
  by_cases hi : i < 32
  · have e : recordCause .r c st = (st &&& 0xFFFFF0FF#32) ||| ((causeCode c).setWidth 32 <<< 8) ||| 1#32 := by
      simp [recordCause, h]
    rw [e, BitVec.getLsbD_or, BitVec.getLsbD_or, BitVec.getLsbD_and, hm i hi, h1 i hi, BitVec.getLsbD_shiftLeft,
      BitVec.getLsbD_setWidth]
    have hz : ∀ j, 4 ≤ j → (causeCode c).getLsbD j = false := fun j hj => BitVec.getLsbD_of_ge _ _ hj
    by_cases h0 : i = 0
    · simp [h0]
    · by_cases h8 : 8 ≤ i
      · by_cases h12 : i < 12
        · simp [h0, h8, h12, hi, show ¬ i < 8 by omega, show i - 8 < 32 by omega]
        · simp [h0, h8, h12, hi, hz (i - 8) (by omega)]
      · simp [h0, h8, hi, show i < 8 by omega]
  · have a : ∀ (x : Word), x.getLsbD i = false := fun x => BitVec.getLsbD_of_ge _ _ (by omega)
    rw [a, a]
    simp [show i ≠ 0 by omega, show ¬ i < 12 by omega]

/-- The same for the W port. -/
theorem recordCause_getLsbD_w (c : Cause) (st : Word) (h : statusIll .w st = false) (i : Nat) :
    (recordCause .w c st).getLsbD i =
      if i = 1 then true
      else if 12 ≤ i ∧ i < 16 then (causeCode c).getLsbD (i - 12)
      else st.getLsbD i := by
  have hm : ∀ j < 32, (0xFFFF0FFF#32).getLsbD j = !(decide (12 ≤ j) && decide (j < 16)) := by decide
  have h1 : ∀ j < 32, (2#32).getLsbD j = decide (j = 1) := by decide
  by_cases hi : i < 32
  · have e : recordCause .w c st = (st &&& 0xFFFF0FFF#32) ||| ((causeCode c).setWidth 32 <<< 12) ||| 2#32 := by
      simp [recordCause, h]
    rw [e, BitVec.getLsbD_or, BitVec.getLsbD_or, BitVec.getLsbD_and, hm i hi, h1 i hi, BitVec.getLsbD_shiftLeft,
      BitVec.getLsbD_setWidth]
    have hz : ∀ j, 4 ≤ j → (causeCode c).getLsbD j = false := fun j hj => BitVec.getLsbD_of_ge _ _ hj
    by_cases h0 : i = 1
    · simp [h0]
    · by_cases h8 : 12 ≤ i
      · by_cases h12 : i < 16
        · simp [h0, h8, h12, hi, show ¬ i < 12 by omega, show i - 12 < 32 by omega]
        · simp [h0, h8, h12, hi, hz (i - 12) (by omega)]
      · simp [h0, h8, hi, show i < 12 by omega]
  · have a : ∀ (x : Word), x.getLsbD i = false := fun x => BitVec.getLsbD_of_ge _ _ (by omega)
    rw [a, a]
    simp [show i ≠ 1 by omega, show ¬ i < 16 by omega]

/-! ### Events -/

@[simp] theorem nextEvent_offer (s : State) (e : Event) : (s.offer e).nextEvent = some (e, s) := by
  cases s; rfl

theorem nextEvent_cons {s : State} {e : Event} {rest : List Event} (h : s.inputs = e :: rest) :
    s.nextEvent = some (e, { s with inputs := rest }) := by
  simp [State.nextEvent, h]

theorem nextEvent_nil {s : State} (h : s.inputs = []) : s.nextEvent = none := by
  simp [State.nextEvent, h]

end Sys2Proof.Machine
end

