-- ==== Sys2Proof/Laws/Events.lean ====
section
/-! SUPPORT. Commands and the event list: no command reads the events still to take effect, so its effect is the same
whatever waits behind it (10_state.md R20, 20_memory.md R53). -/
namespace Sys2Proof.Machine

/-- A command's outcome carries the waiting events along. -/
theorem conclude_inputs (s t : State) (cs : List (Bool × Cause)) (r : List Event) :
    ∃ u, s.conclude cs t = .next u ∧
      ({ s with inputs := r }).conclude cs { t with inputs := r } = .next { u with inputs := r } := by
  rw [conclude_eq, conclude_eq]
  refine ⟨_, rfl, ?_⟩
  cases firstFailing cs <;> rfl

/-- Every command gives a next state, and the same one but for the waiting events whatever they are. -/
theorem exec_inputs (i : Instr) (s : State) (r : List Event) :
    ∃ u, exec i s = .next u ∧ exec i { s with inputs := r } = .next { u with inputs := r } := by
  cases i <;> exact conclude_inputs s _ _ r

/-- The effect of an event is the same whatever waits behind it. -/
theorem afterEvent_inputs (s : State) (e : Event) (r : List Event) :
    afterEvent { s with inputs := r } e = { afterEvent s e with inputs := r } := by
  cases e with
  | reset rDiscarded wDiscarded => cases rDiscarded <;> cases wDiscarded <;> rfl
  | command p q =>
    simp only [afterEvent]
    split
    · rfl
    · rfl
    · rename_i i _ _
      obtain ⟨u, h, h'⟩ := exec_inputs i { s with port := p } r
      rw [h, h']

end Sys2Proof.Machine
end

