-- ==== Sys2Proof/Laws/PerInstr.lean ====
section
/-! SUPPORT. Laws that hold of every instruction as syntax, one lemma per constructor. -/
namespace Sys2Proof.Laws

/-- A part of an append that lies in its low operand. -/
theorem extract_append_low {m n : Nat} (a : BitVec m) (b : BitVec n) (start len : Nat) (h : start + len ≤ n) :
    (a ++ b).extractLsb' start len = b.extractLsb' start len := by
  ext i hi
  simp only [BitVec.getElem_extractLsb', BitVec.getLsbD_append, show start + i < n by omega, if_true]

/-- A part of an append that lies in its high operand. -/
theorem extract_append_high {m n : Nat} (a : BitVec m) (b : BitVec n) (start len : Nat) (h : n ≤ start) :
    (a ++ b).extractLsb' start len = a.extractLsb' (start - n) len := by
  ext i hi
  simp only [BitVec.getElem_extractLsb', BitVec.getLsbD_append, show ¬ start + i < n by omega, if_false]
  congr 1
  omega

theorem famOf_cmdWord (fam op : BitVec 4) (inst idx : Byte) : famOf (cmdWord fam op inst idx) = fam := by
  unfold famOf cmdWord
  rw [extract_append_high _ _ _ _ (by decide), extract_append_high _ _ _ _ (by decide),
    extract_append_high _ _ _ _ (by decide), extract_append_high _ _ _ _ (by decide)]
  simp

theorem opOf_cmdWord (fam op : BitVec 4) (inst idx : Byte) : opOf (cmdWord fam op inst idx) = op := by
  unfold opOf cmdWord
  rw [extract_append_high _ _ _ _ (by decide), extract_append_high _ _ _ _ (by decide),
    extract_append_high _ _ _ _ (by decide), extract_append_low _ _ _ _ (by decide)]
  simp

theorem instOf_cmdWord (fam op : BitVec 4) (inst idx : Byte) : instOf (cmdWord fam op inst idx) = inst := by
  unfold instOf cmdWord
  rw [extract_append_high _ _ _ _ (by decide), extract_append_high _ _ _ _ (by decide),
    extract_append_low _ _ _ _ (by decide)]
  simp

theorem idxOf_cmdWord (fam op : BitVec 4) (inst idx : Byte) : idxOf (cmdWord fam op inst idx) = idx := by
  unfold idxOf cmdWord
  rw [extract_append_high _ _ _ _ (by decide), extract_append_low _ _ _ _ (by decide)]
  simp

theorem rsvOf_cmdWord (fam op : BitVec 4) (inst idx : Byte) : rsvOf (cmdWord fam op inst idx) = 0#8 := by
  unfold rsvOf cmdWord
  rw [extract_append_low _ _ _ _ (by decide)]
  simp

/-- The fields of a command word `w` are `fam`, `op`, `inst`, `idx`, and its reserved bits are 0. -/
def hasFields (w : Word) (fam op : BitVec 4) (inst idx : Byte) : Prop :=
  famOf w = fam ∧ opOf w = op ∧ instOf w = inst ∧ idxOf w = idx ∧ rsvOf w = 0#8

/-- The fields that `cmdWord` packs are the fields that decoding reads (30_encoding.md R61). -/
theorem hasFields_cmdWord (fam op : BitVec 4) (inst idx : Byte) :
    hasFields (cmdWord fam op inst idx) fam op inst idx :=
  ⟨famOf_cmdWord _ _ _ _, opOf_cmdWord _ _ _ _, instOf_cmdWord _ _ _ _, idxOf_cmdWord _ _ _ _, rsvOf_cmdWord _ _ _ _⟩

/-- The fields of a word written as its FAM and OP byte, INST, IDX and zero RSV (30_encoding.md R61). -/
theorem hasFields_bytes (code inst idx : Byte) :
    hasFields (code ++ inst ++ idx ++ 0#8) (code.extractLsb' 4 4) (code.extractLsb' 0 4) inst idx := by
  refine ⟨?_, ?_, ?_, ?_, ?_⟩
  · unfold famOf
    rw [extract_append_high _ _ _ _ (by decide), extract_append_high _ _ _ _ (by decide),
      extract_append_high _ _ _ _ (by decide)]
  · unfold opOf
    rw [extract_append_high _ _ _ _ (by decide), extract_append_high _ _ _ _ (by decide),
      extract_append_high _ _ _ _ (by decide)]
  · unfold instOf
    rw [extract_append_high _ _ _ _ (by decide), extract_append_high _ _ _ _ (by decide),
      extract_append_low _ _ _ _ (by decide)]
    simp
  · unfold idxOf
    rw [extract_append_high _ _ _ _ (by decide), extract_append_low _ _ _ _ (by decide)]
    simp
  · unfold rsvOf
    rw [extract_append_low _ _ _ _ (by decide)]
    simp

/-- The encoding of an instruction has the (FAM, OP) that 30_encoding.md R65 lists for it, its own INST and IDX, and
zero reserved bits. -/
def EncodedFields.Statement : Instr → Prop
  | i@(.sysNop inst idx) => hasFields (encode i).cmd 0#4 0#4 inst idx
  | i@(.sysStatR inst idx) => hasFields (encode i).cmd 0#4 1#4 inst idx
  | i@(.sysStatC inst idx) => hasFields (encode i).cmd 0#4 2#4 inst idx
  | i@(.sysParamR inst idx) => hasFields (encode i).cmd 0#4 3#4 inst idx
  | i@(.dbInit inst idx) => hasFields (encode i).cmd 1#4 0#4 inst idx
  | i@(.dbRreg inst idx) => hasFields (encode i).cmd 1#4 2#4 inst idx
  | i@(.dbRead inst idx) => hasFields (encode i).cmd 1#4 3#4 inst idx
  | i@(.dbWrite inst idx _ _) => hasFields (encode i).cmd 1#4 4#4 inst idx
  | i@(.biqInit inst idx) => hasFields (encode i).cmd 2#4 0#4 inst idx
  | i@(.biqWreg inst idx _) => hasFields (encode i).cmd 2#4 1#4 inst idx
  | i@(.biqRreg inst idx) => hasFields (encode i).cmd 2#4 2#4 inst idx
  | i@(.biqSample inst idx _) => hasFields (encode i).cmd 2#4 3#4 inst idx
  | i@(.cf1Init inst idx) => hasFields (encode i).cmd 3#4 0#4 inst idx
  | i@(.cf1Wreg inst idx _) => hasFields (encode i).cmd 3#4 1#4 inst idx
  | i@(.cf1Rreg inst idx) => hasFields (encode i).cmd 3#4 2#4 inst idx
  | i@(.cf1SampleAcc inst idx _) => hasFields (encode i).cmd 3#4 3#4 inst idx
  | i@(.cf1SampleGyr inst idx _) => hasFields (encode i).cmd 3#4 4#4 inst idx
  | i@(.cf2Init inst idx) => hasFields (encode i).cmd 4#4 0#4 inst idx
  | i@(.cf2Wreg inst idx _) => hasFields (encode i).cmd 4#4 1#4 inst idx
  | i@(.cf2Rreg inst idx) => hasFields (encode i).cmd 4#4 2#4 inst idx
  | i@(.cf2SampleAcc inst idx _) => hasFields (encode i).cmd 4#4 3#4 inst idx
  | i@(.cf2SampleGyr inst idx _) => hasFields (encode i).cmd 4#4 4#4 inst idx
  | i@(.piddInit inst idx) => hasFields (encode i).cmd 5#4 0#4 inst idx
  | i@(.piddWreg inst idx _) => hasFields (encode i).cmd 5#4 1#4 inst idx
  | i@(.piddRreg inst idx) => hasFields (encode i).cmd 5#4 2#4 inst idx
  | i@(.piddCalc inst idx _) => hasFields (encode i).cmd 5#4 3#4 inst idx
  | i@(.pidtInit inst idx) => hasFields (encode i).cmd 6#4 0#4 inst idx
  | i@(.pidtWreg inst idx _) => hasFields (encode i).cmd 6#4 1#4 inst idx
  | i@(.pidtRreg inst idx) => hasFields (encode i).cmd 6#4 2#4 inst idx
  | i@(.pidtCalc inst idx _ _) => hasFields (encode i).cmd 6#4 3#4 inst idx

theorem EncodedFields.sysNop (inst idx : Byte) : EncodedFields.Statement (.sysNop inst idx) :=
  hasFields_cmdWord _ _ _ _

theorem EncodedFields.sysStatR (inst idx : Byte) : EncodedFields.Statement (.sysStatR inst idx) :=
  hasFields_cmdWord _ _ _ _

theorem EncodedFields.sysStatC (inst idx : Byte) : EncodedFields.Statement (.sysStatC inst idx) :=
  hasFields_cmdWord _ _ _ _

theorem EncodedFields.sysParamR (inst idx : Byte) : EncodedFields.Statement (.sysParamR inst idx) :=
  hasFields_cmdWord _ _ _ _

theorem EncodedFields.dbInit (inst idx : Byte) : EncodedFields.Statement (.dbInit inst idx) :=
  hasFields_cmdWord _ _ _ _

theorem EncodedFields.dbRreg (inst idx : Byte) : EncodedFields.Statement (.dbRreg inst idx) :=
  hasFields_cmdWord _ _ _ _

theorem EncodedFields.dbRead (inst idx : Byte) : EncodedFields.Statement (.dbRead inst idx) :=
  hasFields_cmdWord _ _ _ _

theorem EncodedFields.dbWrite (inst idx : Byte) (op0 op1 : Word) : EncodedFields.Statement (.dbWrite inst idx op0 op1) :=
  hasFields_cmdWord _ _ _ _

theorem EncodedFields.biqInit (inst idx : Byte) : EncodedFields.Statement (.biqInit inst idx) :=
  hasFields_cmdWord _ _ _ _

theorem EncodedFields.biqWreg (inst idx : Byte) (op0 : Word) : EncodedFields.Statement (.biqWreg inst idx op0) :=
  hasFields_cmdWord _ _ _ _

theorem EncodedFields.biqRreg (inst idx : Byte) : EncodedFields.Statement (.biqRreg inst idx) :=
  hasFields_cmdWord _ _ _ _

theorem EncodedFields.biqSample (inst idx : Byte) (op0 : Word) : EncodedFields.Statement (.biqSample inst idx op0) :=
  hasFields_cmdWord _ _ _ _

theorem EncodedFields.cf1Init (inst idx : Byte) : EncodedFields.Statement (.cf1Init inst idx) :=
  hasFields_cmdWord _ _ _ _

theorem EncodedFields.cf1Wreg (inst idx : Byte) (op0 : Word) : EncodedFields.Statement (.cf1Wreg inst idx op0) :=
  hasFields_cmdWord _ _ _ _

theorem EncodedFields.cf1Rreg (inst idx : Byte) : EncodedFields.Statement (.cf1Rreg inst idx) :=
  hasFields_cmdWord _ _ _ _

theorem EncodedFields.cf1SampleAcc (inst idx : Byte) (op0 : Word) : EncodedFields.Statement (.cf1SampleAcc inst idx op0) :=
  hasFields_cmdWord _ _ _ _

theorem EncodedFields.cf1SampleGyr (inst idx : Byte) (op0 : Word) : EncodedFields.Statement (.cf1SampleGyr inst idx op0) :=
  hasFields_cmdWord _ _ _ _

theorem EncodedFields.cf2Init (inst idx : Byte) : EncodedFields.Statement (.cf2Init inst idx) :=
  hasFields_cmdWord _ _ _ _

theorem EncodedFields.cf2Wreg (inst idx : Byte) (op0 : Word) : EncodedFields.Statement (.cf2Wreg inst idx op0) :=
  hasFields_cmdWord _ _ _ _

theorem EncodedFields.cf2Rreg (inst idx : Byte) : EncodedFields.Statement (.cf2Rreg inst idx) :=
  hasFields_cmdWord _ _ _ _

theorem EncodedFields.cf2SampleAcc (inst idx : Byte) (op0 : Word) : EncodedFields.Statement (.cf2SampleAcc inst idx op0) :=
  hasFields_cmdWord _ _ _ _

theorem EncodedFields.cf2SampleGyr (inst idx : Byte) (op0 : Word) : EncodedFields.Statement (.cf2SampleGyr inst idx op0) :=
  hasFields_cmdWord _ _ _ _

theorem EncodedFields.piddInit (inst idx : Byte) : EncodedFields.Statement (.piddInit inst idx) :=
  hasFields_cmdWord _ _ _ _

theorem EncodedFields.piddWreg (inst idx : Byte) (op0 : Word) : EncodedFields.Statement (.piddWreg inst idx op0) :=
  hasFields_cmdWord _ _ _ _

theorem EncodedFields.piddRreg (inst idx : Byte) : EncodedFields.Statement (.piddRreg inst idx) :=
  hasFields_cmdWord _ _ _ _

theorem EncodedFields.piddCalc (inst idx : Byte) (op0 : Word) : EncodedFields.Statement (.piddCalc inst idx op0) :=
  hasFields_cmdWord _ _ _ _

theorem EncodedFields.pidtInit (inst idx : Byte) : EncodedFields.Statement (.pidtInit inst idx) :=
  hasFields_cmdWord _ _ _ _

theorem EncodedFields.pidtWreg (inst idx : Byte) (op0 : Word) : EncodedFields.Statement (.pidtWreg inst idx op0) :=
  hasFields_cmdWord _ _ _ _

theorem EncodedFields.pidtRreg (inst idx : Byte) : EncodedFields.Statement (.pidtRreg inst idx) :=
  hasFields_cmdWord _ _ _ _

theorem EncodedFields.pidtCalc (inst idx : Byte) (op0 op1 : Word) : EncodedFields.Statement (.pidtCalc inst idx op0 op1) :=
  hasFields_cmdWord _ _ _ _

end Sys2Proof.Laws
end

