-- ==== Sys2Proof/Laws/Rounding.lean ====
section
/-! SUPPORT. Rounding: `roundMag` gives a nearest magnitude, and one with an even significand in a tie (00_scope.md
R10). The provers cite `roundMag_nearest` where a statement compares a result with the exact one. -/
namespace Sys2Proof.Machine

/-- The magnitude, in units of 2^-149, of a pattern whose low 31 bits are `m`. -/
def magUnits (m : Nat) : Nat :=
  if m / 2 ^ 23 = 0 then m % 2 ^ 23 else (2 ^ 23 + m % 2 ^ 23) * 2 ^ (m / 2 ^ 23 - 1)

theorem unitsOf_packSign (neg : Bool) (mag : Nat) (h : mag < 2 ^ 31) : unitsOf (packSign neg mag) = magUnits mag := by
  unfold unitsOf magUnits
  rw [expoOf_packSign neg mag h, fracOf_packSign neg mag h]

theorem unitsOf_eq (a : Word) : unitsOf a = magUnits (a.toNat % 2 ^ 31) := by
  unfold unitsOf magUnits
  rw [expoOf_eq, fracOf_eq]
  have h1 : a.toNat % 2 ^ 31 / 2 ^ 23 = a.toNat / 2 ^ 23 % 256 := by omega
  have h2 : a.toNat % 2 ^ 31 % 2 ^ 23 = a.toNat % 2 ^ 23 := by omega
  rw [h1, h2]

/-- A significand `n` with `k` bits dropped below it, packed by adding. -/
theorem magUnits_pack (n k : Nat) (h : n ≤ 2 ^ 24) (hk : k = 0 ∨ 2 ^ 23 ≤ n) :
    magUnits (n + k * 2 ^ 23) = n * 2 ^ k := by
  have hn : n < 2 ^ 23 ∨ (2 ^ 23 ≤ n ∧ n < 2 ^ 24) ∨ n = 2 ^ 24 := by omega
  unfold magUnits
  rcases hn with hn | hn | rfl
  · have : k = 0 := by omega
    subst this
    rw [if_pos (by omega)]; simp; omega
  · rw [if_neg (by omega), show (n + k * 2 ^ 23) / 2 ^ 23 = k + 1 by omega,
      show (n + k * 2 ^ 23) % 2 ^ 23 = n - 2 ^ 23 by omega, show 2 ^ 23 + (n - 2 ^ 23) = n by omega]
    rfl
  · rw [if_neg (by omega), show (2 ^ 24 + k * 2 ^ 23) / 2 ^ 23 = k + 2 by omega,
      show (2 ^ 24 + k * 2 ^ 23) % 2 ^ 23 = 0 by omega, show k + 2 - 1 = k + 1 by omega, Nat.pow_succ]
    omega

/-- Every magnitude is a multiple of `2^k` or lies below `2^(23+k)`. -/
theorem magUnits_grid (m k : Nat) : (∃ j, magUnits m = j * 2 ^ k) ∨ magUnits m < 2 ^ 23 * 2 ^ k := by
  unfold magUnits
  by_cases h0 : m / 2 ^ 23 = 0
  · rw [if_pos h0]
    right
    have := Nat.mod_lt m (show 0 < 2 ^ 23 by decide)
    have h2 : 1 ≤ 2 ^ k := Nat.one_le_two_pow
    nlinarith
  · rw [if_neg h0]
    by_cases hk : k ≤ m / 2 ^ 23 - 1
    · left
      obtain ⟨d, hd⟩ := Nat.exists_eq_add_of_le hk
      refine ⟨(2 ^ 23 + m % 2 ^ 23) * 2 ^ d, ?_⟩
      rw [hd, Nat.pow_add]; ring
    · right
      have h1 := Nat.mod_lt m (show 0 < 2 ^ 23 by decide)
      obtain ⟨d, hd⟩ := Nat.exists_eq_add_of_lt (show m / 2 ^ 23 - 1 < k by omega)
      have hp : 2 ^ k = 2 ^ (m / 2 ^ 23 - 1) * 2 ^ d * 2 := by rw [hd, Nat.pow_succ, Nat.pow_add]
      have h2 : 1 ≤ 2 ^ d := Nat.one_le_two_pow
      have h3 : 1 ≤ 2 ^ (m / 2 ^ 23 - 1) := Nat.one_le_two_pow
      rw [hp]
      generalize 2 ^ (m / 2 ^ 23 - 1) = p at *
      have : p ≤ p * 2 ^ d := Nat.le_mul_of_pos_right _ h2
      generalize p * 2 ^ d = x at *
      calc (2 ^ 23 + m % 2 ^ 23) * p < 2 ^ 24 * p := Nat.mul_lt_mul_of_pos_right (by omega) h3
        _ ≤ 2 ^ 24 * x := Nat.mul_le_mul_left _ this
        _ = 2 ^ 23 * (x * 2) := by ring

/-- `roundDiv` is nearest, and even in a tie. -/
theorem roundDiv_nearest (num den : Nat) (hd : 0 < den) (j : Nat) :
    ((roundDiv num den * den : Nat) - num : Int).natAbs ≤ ((j * den : Nat) - num : Int).natAbs ∧
    (((roundDiv num den * den : Nat) - num : Int).natAbs = ((j * den : Nat) - num : Int).natAbs →
      j ≠ roundDiv num den → roundDiv num den % 2 = 0) := by
  unfold roundDiv
  simp only []
  have hdm := Nat.div_add_mod num den
  have hr := Nat.mod_lt num hd
  generalize num % den = r at *
  generalize num / den = q at *
  subst hdm
  have e : den * q = q * den := Nat.mul_comm _ _
  rw [e]
  rcases Nat.lt_trichotomy j q with hj | hj | hj
  · obtain ⟨t, rfl⟩ := Nat.exists_eq_add_of_lt hj
    have h1 : (j + t + 1) * den = j * den + t * den + den := by ring
    have h2 : (j + t + 1 + 1) * den = j * den + t * den + den + den := by ring
    have h3 : 0 ≤ t * den := Nat.zero_le _
    rw [h1]
    generalize j * den = a at *
    generalize t * den = b at *
    split
    · rw [h2]; constructor
      · omega
      · intro h4; omega
    · rw [h1]; constructor
      · omega
      · intro h4; omega
  · subst hj
    have h2 : (j + 1) * den = j * den + den := by ring
    split
    · rw [h2]
      generalize j * den = a at *
      rename_i h; constructor
      · omega
      · intro h4 h5; omega
    · simp
  · obtain ⟨t, rfl⟩ := Nat.exists_eq_add_of_lt hj
    have h1 : (q + t + 1) * den = q * den + t * den + den := by ring
    have h2 : (q + 1) * den = q * den + den := by ring
    have h3 : t = 0 ∨ den ≤ t * den := by
      rcases Nat.eq_zero_or_pos t with h | h
      · exact Or.inl h
      · exact Or.inr (Nat.le_mul_of_pos_left _ h)
    rw [h1]
    split
    · rw [h2]
      rename_i h
      generalize q * den = a at *
      rcases h3 with rfl | h3
      · simp
      · generalize t * den = b at *
        constructor
        · omega
        · intro h4; omega
    · rename_i h
      generalize q * den = a at *
      generalize t * den = b at *
      constructor
      · omega
      · intro h4 h5; omega

/-- The significand that `roundMag` rounds to lies in its range. -/
theorem roundDiv_range (num den k : Nat) (hk : k = Nat.log2 (num / den) - 23) :
    roundDiv num (den * 2 ^ k) ≤ 2 ^ 24 ∧
    (k = 0 ∨ (2 ^ 23 ≤ roundDiv num (den * 2 ^ k) ∧ 2 ^ 23 * (den * 2 ^ k) ≤ num)) := by
  have hb := roundDiv_bounds num (den * 2 ^ k)
  rw [← Nat.div_div_eq_div_mul] at hb
  generalize hq : num / den = q at *
  have hlt : q < 2 ^ (Nat.log2 q + 1) := Nat.lt_log2_self
  have hp : 0 < 2 ^ k := Nat.two_pow_pos k
  have hle : q / 2 ^ k < 2 ^ 24 := by
    rw [Nat.div_lt_iff_lt_mul hp, ← Nat.pow_add]
    exact Nat.lt_of_lt_of_le hlt (Nat.pow_le_pow_right (by decide) (by omega))
  refine ⟨by omega, ?_⟩
  by_cases h0 : k = 0
  · exact Or.inl h0
  · right
    have hq0 : q ≠ 0 := by rintro rfl; simp at hk; omega
    have hlow : 2 ^ 23 * 2 ^ k ≤ q := by
      rw [← Nat.pow_add, show 23 + k = Nat.log2 q by omega]
      exact Nat.log2_self_le hq0
    have : 2 ^ 23 ≤ q / 2 ^ k := by rwa [Nat.le_div_iff_mul_le hp]
    refine ⟨by omega, ?_⟩
    have h1 : q * den ≤ num := by rw [← hq]; exact Nat.div_mul_le_self _ _
    calc 2 ^ 23 * (den * 2 ^ k) = (2 ^ 23 * 2 ^ k) * den := by ring
      _ ≤ q * den := Nat.mul_le_mul_right _ hlow
      _ ≤ num := h1

/-- `roundMag` is nearest among all magnitudes, and even in a tie. -/
theorem roundMag_nearest (num den m : Nat) (hd : 0 < den) (hr : roundMag num den ≠ 0x7F800000) :
    ((magUnits (roundMag num den) * den : Nat) - num : Int).natAbs ≤ ((magUnits m * den : Nat) - num : Int).natAbs ∧
    (((magUnits (roundMag num den) * den : Nat) - num : Int).natAbs = ((magUnits m * den : Nat) - num : Int).natAbs →
      magUnits m ≠ magUnits (roundMag num den) → roundMag num den % 2 = 0) := by
  obtain ⟨k, hk⟩ : ∃ k, k = Nat.log2 (num / den) - 23 := ⟨_, rfl⟩
  obtain ⟨h24, hlow⟩ := roundDiv_range num den k hk
  have he : roundMag num den = roundDiv num (den * 2 ^ k) + k * 2 ^ 23 := by
    unfold roundMag at hr ⊢
    simp only [← hk] at hr ⊢
    omega
  rw [he, magUnits_pack _ _ h24 (by omega)]
  have hD : 0 < den * 2 ^ k := Nat.mul_pos hd (Nat.two_pow_pos k)
  have e1 : ∀ j, j * 2 ^ k * den = j * (den * 2 ^ k) := fun j => by ring
  rw [e1]
  have hpar : (roundDiv num (den * 2 ^ k) + k * 2 ^ 23) % 2 = roundDiv num (den * 2 ^ k) % 2 := by omega
  rw [hpar]
  rcases magUnits_grid m k with ⟨j, hj⟩ | hlt
  · rw [hj, e1]
    obtain ⟨h1, h2⟩ := roundDiv_nearest num (den * 2 ^ k) hD j
    refine ⟨h1, fun h3 h4 => h2 h3 ?_⟩
    rintro rfl
    exact h4 rfl
  · rcases hlow with rfl | ⟨hlo, hnum⟩
    · obtain ⟨h1, h2⟩ := roundDiv_nearest num (den * 2 ^ 0) hD (magUnits m)
      rw [show den * 2 ^ 0 = den by simp] at *
      refine ⟨h1, fun h3 h4 => h2 h3 ?_⟩
      simpa using h4
    · have h1 := (roundDiv_nearest num (den * 2 ^ k) hD (2 ^ 23)).1
      have h2 : magUnits m * den < 2 ^ 23 * (den * 2 ^ k) := by
        calc magUnits m * den < (2 ^ 23 * 2 ^ k) * den := Nat.mul_lt_mul_of_pos_right hlt hd
          _ = _ := by ring
      generalize roundDiv num (den * 2 ^ k) * (den * 2 ^ k) = x at *
      generalize 2 ^ 23 * (den * 2 ^ k) = y at *
      generalize magUnits m * den = z at *
      constructor
      · omega
      · intro h3; omega

/-- A fraction below half-way from `2^24 - 1` to `2^24` does not round up to `2^24`. -/
theorem roundDiv_lt (num den : Nat) (h : 2 * num < (2 ^ 25 - 1) * den) : roundDiv num den < 2 ^ 24 := by
  have hd : 0 < den := by rcases Nat.eq_zero_or_pos den with rfl | hd <;> omega
  have e := Nat.div_add_mod num den
  have hr := Nat.mod_lt num hd
  have hle : num / den < 2 ^ 24 := (Nat.div_lt_iff_lt_mul hd).2 (by omega)
  unfold roundDiv
  simp only []
  generalize num % den = r at *
  rcases Nat.lt_or_ge (num / den) (2 ^ 24 - 1) with hc | hc
  · split <;> omega
  · have hc' : num / den = 2 ^ 24 - 1 := by omega
    rw [hc'] at e ⊢
    rw [if_neg (by omega)]
    decide

/-- A magnitude below half-way from the largest finite one to 2^128 rounds to a finite one (00_scope.md R11). -/
theorem roundMag_finite (num den : Nat) (h : num < (2 ^ 25 - 1) * 2 ^ 252 * den) : roundMag num den < 0x7F800000 := by
  have hd : 0 < den := by rcases Nat.eq_zero_or_pos den with rfl | hd <;> omega
  obtain ⟨k, hk⟩ : ∃ k, k = Nat.log2 (num / den) - 23 := ⟨_, rfl⟩
  obtain ⟨h24, _⟩ := roundDiv_range num den k hk
  have hq : num / den < 2 ^ (25 + 252) := by
    rw [Nat.div_lt_iff_lt_mul hd, Nat.pow_add]
    exact Nat.lt_of_lt_of_le h (Nat.mul_le_mul_right _ (Nat.mul_le_mul_right _ (by decide)))
  have hk253 : k ≤ 253 := by
    rcases Nat.eq_zero_or_pos (num / den) with h0 | h0
    · simp [hk, h0]
    · have := (Nat.log2_lt (by omega)).2 hq
      omega
  have hlt : roundDiv num (den * 2 ^ k) + k * 2 ^ 23 < 0x7F800000 := by
    rcases Nat.lt_or_ge k 253 with hk' | hk'
    · omega
    · have hkk : k = 252 + 1 := by omega
      have h3 : roundDiv num (den * 2 ^ k) < 2 ^ 24 := by
        apply roundDiv_lt
        rw [hkk, Nat.pow_succ]
        calc 2 * num < 2 * ((2 ^ 25 - 1) * 2 ^ 252 * den) := Nat.mul_lt_mul_of_pos_left h (by decide)
          _ = (2 ^ 25 - 1) * (den * (2 ^ 252 * 2)) := by ring
      omega
  unfold roundMag
  simp only [← hk]
  exact Nat.lt_of_le_of_lt (Nat.min_le_left _ _) hlt

/-- A pattern packed from a magnitude below the infinity's is finite. -/
theorem isFinite_packSign (neg : Bool) (mag : Nat) (h : mag < 0x7F800000) : isFinite (packSign neg mag) = true := by
  unfold isFinite
  rw [expoOf_packSign neg mag (by omega), bne_iff_ne]
  omega

/-- Larger patterns have larger magnitudes. -/
theorem magUnits_lt_succ (m : Nat) : magUnits m < magUnits (m + 1) := by
  unfold magUnits
  have hm := Nat.mod_lt m (show 0 < 2 ^ 23 by decide)
  by_cases hc : m % 2 ^ 23 = 2 ^ 23 - 1
  · have h1 : (m + 1) / 2 ^ 23 = m / 2 ^ 23 + 1 := by omega
    have h2 : (m + 1) % 2 ^ 23 = 0 := by omega
    rw [h1, h2, if_neg (Nat.succ_ne_zero _), Nat.add_sub_cancel]
    generalize m / 2 ^ 23 = e at *
    cases e with
    | zero => rw [if_pos rfl]; omega
    | succ d =>
      rw [if_neg (Nat.succ_ne_zero _), Nat.add_sub_cancel, hc]
      calc (2 ^ 23 + (2 ^ 23 - 1)) * 2 ^ d
          < 2 ^ 24 * 2 ^ d := Nat.mul_lt_mul_of_pos_right (by omega) (Nat.two_pow_pos d)
        _ = (2 ^ 23 + 0) * 2 ^ (d + 1) := by rw [Nat.pow_succ]; ring
  · have h1 : (m + 1) / 2 ^ 23 = m / 2 ^ 23 := by omega
    have h2 : (m + 1) % 2 ^ 23 = m % 2 ^ 23 + 1 := by omega
    rw [h1, h2]
    split
    · omega
    · exact Nat.mul_lt_mul_of_pos_right (by omega) (Nat.two_pow_pos _)

theorem magUnits_strictMono : StrictMono magUnits := strictMono_nat_of_lt_succ magUnits_lt_succ

end Sys2Proof.Machine
end

