-- ==== Sys2Proof/Tests/Slice0.lean ====
section
/-! SUPPORT. Tests: ill-formed commands, words written out from 30_encoding.md, one-step vectors of 95_test_vectors.md,
and for each obligation with hypotheses a state and operands that meet them. -/
namespace Sys2Proof.Tests
open Sys2Proof Sys2Proof.Machine

/-! ### WellFormed: an ill-formed command for each check -/

theorem test_illFormed_sys :
    (Instr.sysNop 1 0).wellFormed = false ∧ (Instr.sysNop 0 1).wellFormed = false ∧
    (Instr.sysStatR 1 0).wellFormed = false ∧ (Instr.sysStatR 0 1).wellFormed = false ∧
    (Instr.sysStatC 1 0).wellFormed = false ∧ (Instr.sysStatC 0 1).wellFormed = false ∧
    (Instr.sysParamR 1 0).wellFormed = false ∧ (Instr.sysParamR 0 9).wellFormed = false := by decide

theorem test_illFormed_db :
    (Instr.dbInit 0 1).wellFormed = false ∧ (Instr.dbRreg 0 1).wellFormed = false ∧
    (Instr.dbRead 0 1).wellFormed = false ∧ (Instr.dbWrite 0 1 0 0).wellFormed = false := by decide

theorem test_illFormed_biq :
    (Instr.biqInit 0 1).wellFormed = false ∧ (Instr.biqWreg 0 2 0).wellFormed = false ∧
    (Instr.biqWreg 0 0x0D 0).wellFormed = false ∧ (Instr.biqWreg 0 0 32).wellFormed = false ∧
    (Instr.biqRreg 0 7).wellFormed = false ∧ (Instr.biqRreg 0 0x0F).wellFormed = false ∧
    (Instr.biqSample 0 1 0).wellFormed = false := by decide

theorem test_illFormed_cf :
    (Instr.cf1Init 0 1).wellFormed = false ∧ (Instr.cf1Wreg 0 1 0).wellFormed = false ∧
    (Instr.cf1Rreg 0 3).wellFormed = false ∧ (Instr.cf1SampleAcc 0 1 0).wellFormed = false ∧
    (Instr.cf1SampleGyr 0 1 0).wellFormed = false ∧ (Instr.cf2Init 0 1).wellFormed = false ∧
    (Instr.cf2Wreg 0 1 0).wellFormed = false ∧ (Instr.cf2Rreg 0 5).wellFormed = false ∧
    (Instr.cf2SampleAcc 0 1 0).wellFormed = false ∧ (Instr.cf2SampleGyr 0 1 0).wellFormed = false := by decide

theorem test_illFormed_pid :
    (Instr.piddInit 0 1).wellFormed = false ∧ (Instr.piddWreg 0 3 0).wellFormed = false ∧
    (Instr.piddRreg 0 9).wellFormed = false ∧ (Instr.piddCalc 0 1 0).wellFormed = false ∧
    (Instr.pidtInit 0 1).wellFormed = false ∧ (Instr.pidtWreg 0 4 0).wellFormed = false ∧
    (Instr.pidtRreg 0 6).wellFormed = false ∧ (Instr.pidtCalc 0 1 0 0).wellFormed = false := by decide

theorem test_wellFormed_bounds :
    (Instr.sysParamR 0 8).wellFormed = true ∧ (Instr.biqWreg 0 0 31).wellFormed = true ∧
    (Instr.biqWreg 0xFF 0xFC 0xFFFFFFFF).wellFormed = true ∧ (Instr.biqRreg 0 0xFE).wellFormed = true ∧
    (Instr.cf1Rreg 0 2).wellFormed = true ∧ (Instr.cf2Rreg 0 4).wellFormed = true ∧
    (Instr.piddRreg 0 8).wellFormed = true ∧ (Instr.pidtRreg 0 5).wellFormed = true := by decide

/-! ### Decode: a word for every command, written out from 30_encoding.md R61 and R65 -/

theorem test_decode_sys :
    decode ⟨0x00000000, 0, 0⟩ = .ok (.sysNop 0 0) ∧ decode ⟨0x01000000, 0, 0⟩ = .ok (.sysStatR 0 0) ∧
    decode ⟨0x02000000, 0, 0⟩ = .ok (.sysStatC 0 0) ∧ decode ⟨0x03000600, 0, 0⟩ = .ok (.sysParamR 0 6) := by decide

theorem test_decode_db :
    decode ⟨0x10010000, 0, 0⟩ = .ok (.dbInit 1 0) ∧ decode ⟨0x12010000, 0, 0⟩ = .ok (.dbRreg 1 0) ∧
    decode ⟨0x13020000, 0, 0⟩ = .ok (.dbRead 2 0) ∧
    decode ⟨0x14020000, 0x04030201, 0x00000605⟩ = .ok (.dbWrite 2 0 0x04030201 0x00000605) := by decide

theorem test_decode_biq :
    decode ⟨0x20050000, 0, 0⟩ = .ok (.biqInit 5 0) ∧
    decode ⟨0x21001400, 0x3E800000, 0⟩ = .ok (.biqWreg 0 0x14 0x3E800000) ∧
    decode ⟨0x22000D00, 0, 0⟩ = .ok (.biqRreg 0 0x0D) ∧
    decode ⟨0x23000000, 0x3F800000, 0⟩ = .ok (.biqSample 0 0 0x3F800000) := by decide

theorem test_decode_cf1 :
    decode ⟨0x30010000, 0, 0⟩ = .ok (.cf1Init 1 0) ∧ decode ⟨0x31010000, 5, 0⟩ = .ok (.cf1Wreg 1 0 5) ∧
    decode ⟨0x32000200, 0, 0⟩ = .ok (.cf1Rreg 0 2) ∧ decode ⟨0x33010000, 6, 0⟩ = .ok (.cf1SampleAcc 1 0 6) ∧
    decode ⟨0x34010000, 0x3F800000, 0⟩ = .ok (.cf1SampleGyr 1 0 0x3F800000) := by decide

theorem test_decode_cf2 :
    decode ⟨0x40010000, 0, 0⟩ = .ok (.cf2Init 1 0) ∧ decode ⟨0x41010000, 5, 0⟩ = .ok (.cf2Wreg 1 0 5) ∧
    decode ⟨0x42000400, 0, 0⟩ = .ok (.cf2Rreg 0 4) ∧
    decode ⟨0x43000000, 0x40800000, 0⟩ = .ok (.cf2SampleAcc 0 0 0x40800000) ∧
    decode ⟨0x44010000, 6, 0⟩ = .ok (.cf2SampleGyr 1 0 6) := by decide

theorem test_decode_pidd :
    decode ⟨0x50010000, 0, 0⟩ = .ok (.piddInit 1 0) ∧ decode ⟨0x51000200, 5, 0⟩ = .ok (.piddWreg 0 2 5) ∧
    decode ⟨0x52000800, 0, 0⟩ = .ok (.piddRreg 0 8) ∧ decode ⟨0x53010000, 6, 0⟩ = .ok (.piddCalc 1 0 6) := by decide

theorem test_decode_pidt :
    decode ⟨0x60010000, 0, 0⟩ = .ok (.pidtInit 1 0) ∧ decode ⟨0x61000300, 5, 0⟩ = .ok (.pidtWreg 0 3 5) ∧
    decode ⟨0x62000400, 0, 0⟩ = .ok (.pidtRreg 0 4) ∧
    decode ⟨0x63000000, 0x3F000000, 0x3F800000⟩ = .ok (.pidtCalc 0 0 0x3F000000 0x3F800000) := by decide

theorem test_decode_refusals :
    decode ⟨0x70000001, 0, 0⟩ = .error .rsvdBits ∧ decode ⟨0x70000000, 0, 0⟩ = .error .rsvdFam ∧
    decode ⟨0xF0000000, 0, 0⟩ = .error .rsvdFam ∧ decode ⟨0x11000000, 0, 0⟩ = .error .badOp ∧
    decode ⟨0x05000000, 0, 0⟩ = .error .badOp ∧ decode ⟨0x45000000, 0, 0⟩ = .error .badOp ∧
    decode ⟨0x64000000, 0, 0⟩ = .error .badOp := by decide

theorem test_tableWord :
    decodeTableWord 96 (0x14020000 + 0x04030201 * 2 ^ 32 + 0x605 * 2 ^ 64) =
      some (.dbWrite 2 0 0x04030201 0x00000605) ∧
    decodeTableWord 32 0x14000000 = some (.dbWrite 0 0 0 0) ∧ decodeTableWord 32 0x70000000 = none := by
  decide +kernel

/-! ### One step -/

/-- The state after an outcome; for a stop, which no command gives, the state after reset. -/
def next : Host.Outcome State Fault Refusal → State
  | .next t => t
  | _ => State.reset

/-- The state after one instruction. -/
def after (i : Instr) (s : State) : State := next (exec i s)

/-- The state after one command, from reset. -/
def stepped (p : Port) (cmd op0 op1 : Word) (s : State) : State := next (step (s.offer (.command p ⟨cmd, op0, op1⟩)))

/-- The state after reset with the W port in service. -/
def onW : State := { State.reset with port := .w }

/-- The state after reset with other double buffers. -/
def withDb (d : DbInst) : State := { State.reset with db := [d, d] }

/-- The state after reset with another cascade: its sections and then sections at reset. -/
def withBiq (nsec gain : Word) (secs : List Section) : State :=
  { State.reset with biq := [{ nsec, gain, secs := (secs ++ List.replicate 4 Section.zero).take 4 }] }

/-- A section of five coefficients in zero state. -/
def sec (b0 b1 b2 a1 a2 : Word) : Section := { b0, b1, b2, a1, a2, s0 := 0, s1 := 0 }

/-- The state after reset with other CF1 registers. -/
def withCf1 (tau xprev yprev : Word) : State :=
  { State.reset with cf1 := [{ tau, xprev, yprev }, { tau, xprev, yprev }] }

/-- The state after reset with other CF2 registers. -/
def withCf2 (c : Cf2Inst) : State := { State.reset with cf2 := [c] }

/-- The state after reset with other PIDD registers. -/
def withPidd (c : PiddInst) : State := { State.reset with pidd := [c] }

/-- The state after reset with other PIDT registers. -/
def withPidt (c : PidtInst) : State := { State.reset with pidt := [c] }

/-- A buffer whose slot 1 is readable and new (95_test_vectors.md T-DB-2). -/
def fullDb : DbInst := { slot0 := [0, 0], slot1 := [0xAABBCCDD, 0x00001122], rsel := true, fresh := true }

-- L2.7
theorem test_sysNop_bothPorts : after (.sysNop 0 0) State.reset = State.reset ∧ after (.sysNop 0 0) onW = onW := by
  decide

-- T-SYS-7
theorem test_sysStatR_onW : (after (.sysStatR 0 0) onW).wResp.flags = 0x41 ∧
    (after (.sysStatR 0 0) onW).status = 0x00004002 := by decide

-- L2.8, step 5
theorem test_sysStatR : (after (.sysStatR 0 0) { State.reset with status := 0x4203 }).rResp.d0 = 0x4203 := by decide

theorem test_sysStatC : (after (.sysStatC 0 0) { State.reset with status := 0x4203 }).status = 0 := by decide

-- T-SYS-2, T-SYS-3
theorem test_sysParamR :
    [0, 1, 2, 3, 4, 5, 6, 7, 8].map (fun k => (after (.sysParamR 0 k) State.reset).rResp.d0) =
      [2, 1, 2, 1, 1, 1, 4, 2, 7] := by decide

theorem test_sysParamR_badIdx : (after (.sysParamR 0 9) State.reset).rResp.flags = 0x61 := by decide

-- T-DB-5
theorem test_dbInit : (after (.dbInit 0 0) (withDb fullDb)).db = [DbInst.zero 2, fullDb] := by decide

-- T-DB-4
theorem test_dbRreg : (after (.dbRreg 0 0) (withDb fullDb)).rResp.d0 = 3 ∧
    (after (.dbRreg 0 0) (withDb fullDb)).db = [fullDb, fullDb] := by decide

-- T-DB-2
theorem test_dbRead : (after (.dbRead 0 0) (withDb fullDb)).rResp = ⟨0x300, 0xAABBCCDD, 0x00001122⟩ ∧
    (after (.dbRead 0 0) (after (.dbRead 0 0) (withDb fullDb))).rResp.flags = 0x200 := by decide

-- T-DB-1
theorem test_dbRead_empty : (after (.dbRead 0 0) State.reset).rResp = ⟨0, 0, 0⟩ := by decide

-- T-DB-2, end state
theorem test_dbWrite : (after (.dbWrite 0 0 0xAABBCCDD 0x00001122) onW).db = [fullDb, DbInst.zero 2] := by decide

-- T-ILL-9
theorem test_dbWrite_onR : (after (.dbWrite 0 0 5 6) State.reset).db = State.reset.db ∧
    (after (.dbWrite 0 0 5 6) State.reset).rResp.flags = 0x41 ∧
    (after (.dbWrite 0 0 5 6) State.reset).status = 0x401 := by decide

-- T-BIQ-10
theorem test_biqInit :
    (after (.biqInit 0 0) (withBiq 1 2 [{ sec 1 2 3 4 5 with s0 := 6, s1 := 7 }])).biq =
      (withBiq 1 2 [sec 1 2 3 4 5]).biq := by decide

-- T-BIQ-8c, 30_encoding.md R77
theorem test_biqWreg : (after (.biqWreg 0 0 4) State.reset).biq = (withBiq 4 0 []).biq ∧
    (after (.biqWreg 0 0x14 5) State.reset).biq = (withBiq 0 0 [Section.zero, sec 0 0 0 0 5]).biq := by decide

-- T-BIQ-8, T-BIQ-11
theorem test_biqWreg_refused : (after (.biqWreg 0 0 32) State.reset).rResp.flags = 0x81 ∧
    (after (.biqWreg 0 0x0D 0x3F800000) State.reset).rResp.flags = 0x71 := by decide

-- T-BIQ-9, T-BIQ-12
theorem test_biqRreg : (after (.biqRreg 0 0x0D) (withBiq 1 2 [{ sec 1 2 3 4 5 with s0 := 9 }])).rResp.d0 = 9 ∧
    (after (.biqRreg 0 0x28) State.reset).rResp.flags = 0x61 := by decide

-- T-BIQ-3, first sample
theorem test_biqSample_pole :
    (after (.biqSample 0 0 0x3F800000)
      (withBiq 1 0x40000000 [sec 0x3F800000 0 0 0xBF000000 0])).rResp.d0 = 0x40000000 ∧
    ((after (.biqSample 0 0 0x3F800000)
      (withBiq 1 0x40000000 [sec 0x3F800000 0 0 0xBF000000 0])).biqAt 0).secs.map (·.s0) =
      [0x3F000000, 0, 0, 0] := by decide +kernel

-- T-BIQ-6
theorem test_biqSample_noSections :
    (after (.biqSample 0 0 0x40000000) (withBiq 0 0x40400000 [])).rResp.d0 = 0x40C00000 := by decide +kernel

theorem test_cf1Init : (after (.cf1Init 1 0) (withCf1 1 2 3)).cf1 = [⟨1, 2, 3⟩, ⟨1, 0, 0⟩] := by decide

-- T-CF1-10
theorem test_cf1Wreg : (after (.cf1Wreg 1 0 9) (withCf1 1 2 3)).cf1 = [⟨1, 2, 3⟩, ⟨9, 2, 3⟩] ∧
    (after (.cf1Wreg 1 1 9) (withCf1 1 2 3)).rResp.flags = 0x71 := by decide

-- T-CF1-11
theorem test_cf1Rreg : (after (.cf1Rreg 0 2) (withCf1 1 2 3)).rResp.d0 = 3 ∧
    (after (.cf1Rreg 0 3) (withCf1 1 2 3)).rResp.flags = 0x61 := by decide

-- T-CF1-2, second output
theorem test_cf1SampleAcc :
    (after (.cf1SampleAcc 0 0 0x3F800000) (withCf1 0x40400000 0x3F800000 0x3E800000)).cf1 =
      [⟨0x40400000, 0x3F800000, 0x3F200000⟩, ⟨0x40400000, 0x3F800000, 0x3E800000⟩] := by decide +kernel

-- T-CF1-5, second output
theorem test_cf1SampleAcc_pole :
    (after (.cf1SampleAcc 0 0 0x3F800000) (withCf1 0xBF800000 0x3F800000 0x7F800000)).rResp.d0 = 0xFF800000 := by
  decide +kernel

-- T-CF1-3, second output
theorem test_cf1SampleGyr :
    (after (.cf1SampleGyr 0 0 0x3F800000) (withCf1 0x40400000 0x3F800000 0x3F400000)).rResp.d0 = 0x3FF00000 := by
  decide +kernel

-- T-CF1-8, first output
theorem test_cf1SampleGyr_rounds :
    (after (.cf1SampleGyr 0 0 0x3F800000) (withCf1 0x3DCCCCCD 0 0)).rResp.d0 = 0x3DBA2E8C := by decide +kernel

theorem test_cf2Init : (after (.cf2Init 0 0) (withCf2 ⟨1, 2, 3, 4, 5⟩)).cf2 = [⟨1, 0, 0, 0, 0⟩] := by decide

-- T-CF2-5
theorem test_cf2Wreg : (after (.cf2Wreg 0 0 9) (withCf2 ⟨1, 2, 3, 4, 5⟩)).cf2 = [⟨9, 2, 3, 4, 5⟩] ∧
    (after (.cf2Wreg 0 3 9) (withCf2 ⟨1, 2, 3, 4, 5⟩)).rResp.flags = 0x71 := by decide

-- T-CF2-6
theorem test_cf2Rreg : (after (.cf2Rreg 0 4) (withCf2 ⟨1, 2, 3, 4, 5⟩)).rResp.d0 = 5 ∧
    (after (.cf2Rreg 0 5) (withCf2 ⟨1, 2, 3, 4, 5⟩)).rResp.flags = 0x61 := by decide

-- T-CF2-1, second output, and the shift of its history
theorem test_cf2SampleAcc :
    cf2Output 0 ⟨0x3E800000, 0x3F000000, 0x3E800000, 0, 0⟩ 0 ⟨0, 0x40800000, 0, 0x3F800000, 0⟩ = 0x40000000 ∧
    (after (.cf2SampleAcc 0 0 7) (withCf2 ⟨1, 2, 3, 4, 5⟩)).cf2.map (fun c => (c.tau, c.x1, c.x2, c.y2)) =
      [(1, 7, 2, 4)] := by decide +kernel

-- T-CF2-2, third output, and the shift of its history
theorem test_cf2SampleGyr :
    cf2Output 0 ⟨0x3F800000, 0, 0, 0xBF800000, 0⟩ 0x40400000
      ⟨0, 0x40000000, 0x3F800000, 0x40400000, 0x3F800000⟩ = 0x40C00000 ∧
    (after (.cf2SampleGyr 0 0 7) (withCf2 ⟨1, 2, 3, 4, 5⟩)).cf2.map (fun c => (c.tau, c.x1, c.x2, c.y2)) =
      [(1, 7, 2, 4)] := by decide +kernel

-- T-PIDD-4
theorem test_piddInit :
    (after (.piddInit 0 0) (withPidd ⟨0x40000000, 0x3F000000, 0x3F800000, 0, 0, 0, 1, 2, 3⟩)).pidd =
      [⟨0x40000000, 0x3F000000, 0x3F800000, 0x40600000, 0xC0800000, 0x3F800000, 0, 0, 0⟩] := by decide +kernel

-- T-PIDD-11
theorem test_piddInit_minusZero : (after (.piddInit 0 0) State.reset).pidd.map (·.k2) = [0x80000000] := by
  decide +kernel

-- T-PIDD-7, T-PIDD-8
theorem test_piddWreg : (after (.piddWreg 0 2 9) (withPidd ⟨1, 2, 3, 4, 5, 6, 7, 8, 9⟩)).pidd =
      [⟨1, 2, 9, 4, 5, 6, 7, 8, 9⟩] ∧
    (after (.piddWreg 0 3 9) State.reset).rResp.flags = 0x71 := by decide

-- T-PIDD-6, T-PIDD-10
theorem test_piddRreg : (after (.piddRreg 0 8) (withPidd ⟨1, 2, 3, 4, 5, 6, 7, 8, 9⟩)).rResp.d0 = 9 ∧
    (after (.piddRreg 0 9) State.reset).rResp.flags = 0x61 := by decide

-- T-PIDD-4, second output
theorem test_piddCalc :
    (after (.piddCalc 0 0 0x3F000000)
      (withPidd ⟨0, 0, 0, 0x40600000, 0xC0800000, 0x3F800000, 0x3F800000, 0, 0x40600000⟩)).pidd =
      [⟨0, 0, 0, 0x40600000, 0xC0800000, 0x3F800000, 0x3F000000, 0x3F800000, 0x3FA00000⟩] := by decide +kernel

theorem test_pidtInit : (after (.pidtInit 0 0) (withPidt ⟨1, 2, 3, 4, 5, 6⟩)).pidt = [⟨1, 2, 3, 4, 0, 0⟩] := by decide

-- T-PIDT-13
theorem test_pidtWreg : (after (.pidtWreg 0 3 9) (withPidt ⟨1, 2, 3, 4, 5, 6⟩)).pidt = [⟨1, 2, 3, 9, 5, 6⟩] ∧
    (after (.pidtWreg 0 4 9) State.reset).rResp.flags = 0x71 := by decide

-- T-PIDT-12, T-PIDT-15
theorem test_pidtRreg : (after (.pidtRreg 0 4) (withPidt ⟨1, 2, 3, 4, 5, 6⟩)).rResp.d0 = 5 ∧
    (after (.pidtRreg 0 6) State.reset).rResp.flags = 0x61 := by decide

-- T-PIDT-3, second call
theorem test_pidtCalc_derivative :
    (after (.pidtCalc 0 0 0x40400000 0x3F000000)
      (withPidt ⟨0, 0, 0x3F800000, 0x41200000, 0x3F000000, 0x3F800000⟩)).rResp.d0 = 0x40800000 ∧
    (after (.pidtCalc 0 0 0x40400000 0x3F000000)
      (withPidt ⟨0, 0, 0x3F800000, 0x41200000, 0x3F000000, 0x3F800000⟩)).pidt =
      [⟨0, 0, 0x3F800000, 0x41200000, 0x40000000, 0x40400000⟩] := by decide +kernel

-- T-PIDT-6, second call
theorem test_pidtCalc_negativeBound :
    (after (.pidtCalc 0 0 0xC0A00000 0x3F800000)
      (withPidt ⟨0, 0x3F800000, 0, 0xBF800000, 0xBF800000, 0x3F000000⟩)).rResp.d0 = 0x3F800000 := by decide +kernel

-- T-ILL-28, T-ILL-8, T-ILL-17
theorem test_step_illegal :
    (stepped .r 0x21000D05 5 0 State.reset).rResp.flags = 0x11 ∧
    (stepped .w 0x7F000000 0 0 State.reset).wResp.flags = 0x21 ∧
    (stepped .w 0x7F000000 0 0 State.reset).status = 0x2002 ∧
    (stepped .r 0x21002800 0 0 State.reset).status = 0x601 := by decide

-- 60_exceptions.md R138: every cause, by its number in the response (CAUSE in bits 7:4, ILL in bit 0)
theorem test_causeNumbers :
    (stepped .r 0x00000001 0 0 State.reset).rResp.flags = 0x11 ∧
    (stepped .r 0xF0000000 0 0 State.reset).rResp.flags = 0x21 ∧
    (stepped .r 0x11000000 0 0 State.reset).rResp.flags = 0x31 ∧
    (stepped .w 0x13000000 0 0 State.reset).wResp.flags = 0x41 ∧
    (stepped .w 0x14070000 0 0 State.reset).wResp.flags = 0x51 ∧
    (stepped .r 0x22000700 0 0 State.reset).rResp.flags = 0x61 ∧
    (stepped .r 0x21000D00 0 0 State.reset).rResp.flags = 0x71 ∧
    (stepped .r 0x21000000 5 0 State.reset).rResp.flags = 0x81 := by decide

-- T-RST-1
theorem test_step_reset :
    next (step ((withDb fullDb).offer (.reset false false))) = State.reset := by decide

theorem test_withFetchWord :
    next (step (State.reset.withFetchWord 32 0x03000600)) = { State.reset with rResp := ⟨0, 4, 0⟩ } ∧
    (next (step (State.reset.withFetchWord 96 (0x14000000 + 7 * 2 ^ 32)))).db.map (·.slot1) = [[7, 0], [0, 0]] := by
  decide +kernel

/-! ### The assembler -/

/-- Lines 10 and 11 of program P3 of 95_test_vectors.md, and line 10 with the prefix that contradicts R70. -/
theorem test_assemble_ports :
    assemble "db.write 0, 0x11111111, 0x22222222".toList = some (.command .r ⟨0x14000000, 0x11111111, 0x22222222⟩) ∧
    assemble "R: db.write 0, 0x11111111, 0x22222222".toList = none ∧ assemble "W: db.read 0".toList = none := by
  decide +kernel

theorem test_pseudoBiqSection_range :
    (pseudoBiqSection 0 30 1 2 3 4 5).isSome = true ∧ pseudoBiqSection 0 31 1 2 3 4 5 = none := by decide

/-! ### Witnesses: for each obligation with hypotheses, a state and operands that meet them, clause by clause -/

/-- The state after reset with one command waiting. -/
def waiting (p : Port) (cmd op0 op1 : Word) : State := State.reset.offer (.command p ⟨cmd, op0, op1⟩)

/-- The command is illegal with this cause in a block at reset with this port in service. -/
def refusedBy (p : Port) (i : Instr) (c : Cause) : Prop := illegalCause State.reset.params p (encode i) = some c

theorem witness_DecodedWordIsTheEncoding : decode ⟨0x23FF0000, 7, 9⟩ = .ok (.biqSample 0xFF 0 7) := by decide

theorem witness_StepRunsTheDecodedCommand :
    (waiting .w 0x14010000 5 6).inputs = .command .w ⟨0x14010000, 5, 6⟩ :: [] ∧
    decode ⟨0x14010000, 5, 6⟩ = .ok (.dbWrite 1 0 5 6) := by decide

theorem witness_IllegalCommandsByTheCheckOrder :
    (waiting .r 0x21000000 5 0).inputs = .command .r ⟨0x21000000, 5, 0⟩ :: [] ∧
    illegalCause State.reset.params .r ⟨0x21000D05, 5, 0⟩ = some .rsvdBits ∧
    illegalCause State.reset.params .w ⟨0x7F000000, 0, 0⟩ = some .rsvdFam ∧
    illegalCause State.reset.params .r ⟨0x64000000, 0, 0⟩ = some .badOp ∧
    illegalCause State.reset.params .w ⟨0x13020000, 0, 0⟩ = some .wrongPort ∧
    illegalCause State.reset.params .r ⟨0x13020000, 0, 0⟩ = some .badInst ∧
    illegalCause State.reset.params .r ⟨0x22002800, 0, 0⟩ = some .badIdx ∧
    illegalCause State.reset.params .r ⟨0x21000D00, 0, 0⟩ = some .roReg ∧
    illegalCause State.reset.params .r ⟨0x21000000, 5, 0⟩ = some .badValue := by decide

theorem witness_LegalCommandsReportNoCause :
    (waiting .r 0x21000000 4 0).inputs = .command .r ⟨0x21000000, 4, 0⟩ :: [] ∧
    illegalCause State.reset.params .r ⟨0x21000000, 4, 0⟩ = none ∧
    illegalCause State.reset.params .w ⟨0x14010000, 0, 0⟩ = none := by decide

theorem witness_StatusRecordsTheFirstCause :
    (waiting .r 0x02000000 0 0).inputs = .command .r ⟨0x02000000, 0, 0⟩ :: [] ∧
    illegalCause State.reset.params .r ⟨0x02000000, 0, 0⟩ = none ∧
    illegalCause State.reset.params .r ⟨0x01000000, 0, 0⟩ = none ∧
    illegalCause State.reset.params .r ⟨0x70000000, 0, 0⟩ = some .rsvdFam ∧
    illegalCause State.reset.params .w ⟨0x01000000, 0, 0⟩ = some .wrongPort ∧
    State.reset.status.getLsbD 0 = false ∧ State.reset.status.getLsbD 1 = false ∧
    (stepped .r 0x70000000 0 0 State.reset).status.getLsbD 0 = true ∧
    (stepped .w 0x01000000 0 0 State.reset).status.getLsbD 1 = true := by decide

theorem witness_ResetEventZeroesEveryRegister :
    (State.reset.offer (.reset true true)).inputs = .reset true true :: [] ∧
    (State.reset.offer (.reset false false)).inputs = .reset false false :: [] := by decide

theorem witness_EveryStepGoesOn : State.reset.inputs = [] := by decide

theorem witness_EveryStepKeepsTheInvariant :
    (waiting .w 0x14010000 5 6).wf = true ∧
    ∃ t, step (waiting .w 0x14010000 5 6) = .next t :=
  ⟨by decide, _, rfl⟩

theorem witness_ResetStatesHaveTheInvariant :
    ({ nDb := 0, nBiq := 0, nCf1 := 0, nCf2 := 0, nPidd := 0, nPidt := 0, biqMaxSec := 1, dbSlotWords := 1 } :
      Params).legal = true ∧
    ({ nDb := 256, nBiq := 256, nCf1 := 256, nCf2 := 256, nPidd := 256, nPidt := 256, biqMaxSec := 31,
       dbSlotWords := 2 } : Params).legal = true := by decide

theorem witness_WritePortTouchesOnlyBuffersAndItsRecord :
    (waiting .w 0x14010000 5 6).inputs = .command .w ⟨0x14010000, 5, 6⟩ :: [] ∧
    (Event.command .w ⟨0x14010000, 5, 6⟩).writesDb State.reset.params 0 = false ∧
    ∃ t, step (waiting .w 0x14010000 5 6) = .next t :=
  ⟨by decide, by decide, _, rfl⟩

theorem witness_OtherInstancesAreUnchanged :
    instrFamily (.cf1Init 1 0) = 3 ∧ instrTarget (.cf1Init 1 0) = 1 ∧
    exec (.cf1Init 1 0) (withCf1 1 2 3) = .next (after (.cf1Init 1 0) (withCf1 1 2 3)) :=
  ⟨by decide, by decide, rfl⟩

theorem witness_ResultsDependOnTheNamedInstanceOnly :
    (withDb fullDb).params = State.reset.params ∧ (withDb fullDb).port = State.reset.port ∧
    (withDb fullDb).draws = State.reset.draws ∧
    sameInst (instrFamily (.cf1Rreg 1 2)) (instrTarget (.cf1Rreg 1 2)) (withDb fullDb) State.reset ∧
    exec (.cf1Rreg 1 2) (withDb fullDb) = .next (after (.cf1Rreg 1 2) (withDb fullDb)) ∧
    exec (.cf1Rreg 1 2) State.reset = .next (after (.cf1Rreg 1 2) State.reset) :=
  ⟨rfl, rfl, rfl, rfl, rfl, rfl⟩

theorem witness_RegistersChangeByTheirClass :
    opOf (encode (.cf1Init 1 0)).cmd ≠ 1 ∧ opOf (encode (.cf1Wreg 1 0 9)).cmd = 1 ∧
    exec (.cf1Init 1 0) (withCf1 1 2 3) = .next (after (.cf1Init 1 0) (withCf1 1 2 3)) ∧
    exec (.cf1Wreg 1 0 9) (withCf1 1 2 3) = .next (after (.cf1Wreg 1 0 9) (withCf1 1 2 3)) :=
  ⟨by decide, by decide, rfl, rfl⟩

theorem witness_PiddCoefficientsChangeByInitOnly :
    exec (.piddWreg 0 2 9) (withPidd ⟨1, 2, 3, 4, 5, 6, 7, 8, 9⟩) =
      .next (after (.piddWreg 0 2 9) (withPidd ⟨1, 2, 3, 4, 5, 6, 7, 8, 9⟩)) ∧
    ∀ idx, Instr.piddWreg 0 2 9 ≠ .piddInit 0 idx :=
  ⟨rfl, by simp⟩

theorem witness_RepeatedCommandsAreIdempotent :
    exec (.biqWreg 0 0 4) State.reset = .next (after (.biqWreg 0 0 4) State.reset) ∧
    exec (.piddInit 0 0) State.reset = .next (after (.piddInit 0 0) State.reset) ∧
    (after (.piddInit 0 0) State.reset).pidd.map (fun c => (isNaN c.k1, isNaN c.k2)) = [(false, false)] :=
  ⟨rfl, rfl, by decide +kernel⟩

/-- The four SYS statements, each clause. -/
theorem witness_SysStatements :
    State.reset.port = .r ∧ onW.port = .w ∧
    [State.reset.params.nDb, 1, 2, 1, 1, 1, 4, 2, 7][(0 : Byte).toNat]? = some 2 ∧
    [State.reset.params.nDb, 1, 2, 1, 1, 1, 4, 2, 7][(8 : Byte).toNat]? = some 7 ∧
    refusedBy .w (.sysNop 1 0) .badInst ∧ refusedBy .w (.sysStatR 0 0) .wrongPort ∧
    refusedBy .r (.sysStatC 0 1) .badIdx ∧ refusedBy .r (.sysParamR 0 9) .badIdx := by
  unfold refusedBy; decide

/-- DbInitEmptiesTheBuffer, DbRregAnswersCtrl, DbReadAnswersTheReadableSlot, DbWritePublishesTheOtherSlot. -/
theorem witness_DbStatements :
    (withDb fullDb).port = .r ∧ onW.port = .w ∧ (1 : Byte).toNat < State.reset.params.nDb ∧
    (withDb fullDb).db[(1 : Byte).toNat]? = some fullDb ∧ onW.db[(1 : Byte).toNat]? = some (DbInst.zero 2) ∧
    (onW.params.dbSlotWords = 2 ∧ ([5, 6] : List Word) = [5, 6]) ∧
    refusedBy .r (.dbInit 2 0) .badInst ∧ refusedBy .r (.dbRreg 1 1) .badIdx ∧
    refusedBy .w (.dbRead 1 0) .wrongPort ∧ refusedBy .r (.dbWrite 1 0 5 6) .wrongPort := by
  unfold refusedBy; decide

theorem witness_DbWritePublishesTheOtherSlot_oneWord :
    let m : Params := { Config.params with dbSlotWords := 1 }
    ({ State.resetWith m with port := .w }).db[(1 : Byte).toNat]? = some (DbInst.zero 1) ∧ m.dbSlotWords = 1 := by
  decide

theorem witness_ReadsReturnTheLastWritePayloadWhole :
    let evs : List Event := [.command .r (encode (.dbRead 1 0)), .command .w (encode (.dbWrite 0 0 8 9))]
    let s : State :=
      { State.reset with
        inputs := .command .w (encode (.dbWrite 1 0 5 6)) :: (evs ++ .command .r (encode (.dbRead 1 0)) :: []) }
    s.wf = true ∧ (1 : Byte).toNat < s.params.nDb ∧ ∀ e ∈ evs, e.replacesDb s.params 1 = false := by decide

theorem witness_ReadBeforeAnyWriteAnswersZero :
    let evs : List Event := [.command .r (encode (.dbInit 1 0)), .reset false true]
    let s (e : Event) : State :=
      { withDb fullDb with inputs := e :: (evs ++ .command .r (encode (.dbRead 1 0)) :: []) }
    (s (.command .r (encode (.dbInit 1 0)))).wf = true ∧ (s (.reset true false)).wf = true ∧
    (1 : Byte).toNat < State.reset.params.nDb ∧ ∀ e ∈ evs, e.writesDb State.reset.params 1 = false := by decide

theorem witness_ReadWriteRaceHasTwoOutcomes :
    (withDb fullDb).wf = true ∧ (1 : Byte).toNat < (withDb fullDb).params.nDb ∧
    (withDb fullDb).db[(1 : Byte).toNat]? = some fullDb := by decide

/-- A cascade at its last section and its largest NSEC, in zero state. -/
def fullBiq : BiqInst := { nsec := 4, gain := 0x40000000, secs := List.replicate 4 (sec 1 2 3 4 5) }

/-- The state after reset with that cascade. -/
def withFullBiq : State := { State.reset with biq := [fullBiq] }

/-- BiqInitClearsTheDelayLine, BiqWregWritesTheNamedRegister, BiqRregAnswersTheNamedRegister,
BiqSampleRunsTheCascade. -/
theorem witness_BiqStatements :
    withFullBiq.port = .r ∧ (0 : Byte).toNat < withFullBiq.params.nBiq ∧
    withFullBiq.biq[(0 : Byte).toNat]? = some fullBiq ∧ (4 : Word).toNat ≤ withFullBiq.params.biqMaxSec ∧
    fullBiq.nsec.toNat ≤ fullBiq.secs.length ∧ 3 < withFullBiq.params.biqMaxSec ∧
    fullBiq.secs[0]? = some (sec 1 2 3 4 5) ∧ fullBiq.secs[3]? = some (sec 1 2 3 4 5) ∧
    refusedBy .r (.biqInit 1 0) .badInst ∧ refusedBy .r (.biqWreg 0 0 5) .badValue ∧
    refusedBy .r (.biqRreg 0 0x28) .badIdx ∧ refusedBy .r (.biqSample 0 1 0) .badIdx := by
  unfold refusedBy; decide

theorem witness_ZeroInputOnZeroStateGivesZero :
    isZero 0x80000000#32 = true ∧ isZero 0#32 = true ∧ isFinite fullBiq.gain = true ∧
    ∀ c ∈ fullBiq.secs, isZero c.s0 = true ∧ isZero c.s1 = true ∧ isFinite c.b0 = true ∧ isFinite c.b1 = true ∧
      isFinite c.b2 = true ∧ isFinite c.a1 = true ∧ isFinite c.a2 = true := by decide

/-- The statements of the CF1 and CF2 commands. -/
theorem witness_FilterStatements :
    (withCf1 1 2 3).port = .r ∧ (1 : Byte).toNat < (withCf1 1 2 3).params.nCf1 ∧
    (withCf1 1 2 3).cf1[(1 : Byte).toNat]? = some ⟨1, 2, 3⟩ ∧
    (withCf2 ⟨1, 2, 3, 4, 5⟩).port = .r ∧ (0 : Byte).toNat < (withCf2 ⟨1, 2, 3, 4, 5⟩).params.nCf2 ∧
    (withCf2 ⟨1, 2, 3, 4, 5⟩).cf2[(0 : Byte).toNat]? = some ⟨1, 2, 3, 4, 5⟩ ∧
    ([1, 2, 3] : List Word)[(0 : Byte).toNat]? = some 1 ∧ ([1, 2, 3] : List Word)[(2 : Byte).toNat]? = some 3 ∧
    ([1, 2, 3, 4, 5] : List Word)[(4 : Byte).toNat]? = some 5 ∧
    refusedBy .r (.cf1Init 2 0) .badInst ∧ refusedBy .r (.cf2Init 1 0) .badInst ∧
    refusedBy .r (.cf1Wreg 0 2 0) .roReg ∧ refusedBy .r (.cf2Wreg 0 5 0) .badIdx ∧
    refusedBy .r (.cf1Rreg 0 3) .badIdx ∧ refusedBy .w (.cf2Rreg 0 0) .wrongPort ∧
    refusedBy .r (.cf1SampleAcc 2 0 0) .badInst ∧ refusedBy .w (.cf1SampleGyr 0 0 0) .wrongPort ∧
    refusedBy .r (.cf2SampleAcc 0 1 0) .badIdx ∧ refusedBy .r (.cf2SampleGyr 1 0 0) .badInst := by
  unfold refusedBy; decide

/-- The statements of the PIDD and PIDT commands, with PIDT.INIT of FilterInitsClearTheHistory. -/
theorem witness_PidStatements :
    (withPidd ⟨1, 2, 3, 4, 5, 6, 7, 8, 9⟩).port = .r ∧
    (0 : Byte).toNat < (withPidd ⟨1, 2, 3, 4, 5, 6, 7, 8, 9⟩).params.nPidd ∧
    (withPidd ⟨1, 2, 3, 4, 5, 6, 7, 8, 9⟩).pidd[(0 : Byte).toNat]? = some ⟨1, 2, 3, 4, 5, 6, 7, 8, 9⟩ ∧
    ([1, 2, 3, 4, 5, 6, 7, 8, 9] : List Word)[(8 : Byte).toNat]? = some 9 ∧
    (withPidt ⟨1, 2, 3, 4, 5, 6⟩).port = .r ∧ (0 : Byte).toNat < (withPidt ⟨1, 2, 3, 4, 5, 6⟩).params.nPidt ∧
    (withPidt ⟨1, 2, 3, 4, 5, 6⟩).pidt[(0 : Byte).toNat]? = some ⟨1, 2, 3, 4, 5, 6⟩ ∧
    ([1, 2, 3, 4, 5, 6] : List Word)[(5 : Byte).toNat]? = some 6 ∧
    refusedBy .r (.piddInit 1 0) .badInst ∧ refusedBy .r (.piddWreg 0 3 0) .roReg ∧
    refusedBy .r (.piddRreg 0 9) .badIdx ∧ refusedBy .w (.piddCalc 0 0 0) .wrongPort ∧
    refusedBy .r (.pidtInit 1 0) .badInst ∧ refusedBy .r (.pidtWreg 0 4 0) .roReg ∧
    refusedBy .r (.pidtRreg 0 6) .badIdx ∧ refusedBy .r (.pidtCalc 0 1 0 0) .badIdx := by
  unfold refusedBy; decide

theorem witness_ClampByTheKindOfBound :
    isNaN 0x7FC00000#32 = true ∧ isNaN 0x3F800000#32 = false ∧
    (isFinite 0x80000000#32 = true ∧ 0 ≤ valueOf 0x80000000#32) ∧
    (isFinite 0x7F7FFFFF#32 = true ∧ 0 ≤ valueOf 0x7F7FFFFF#32 ∧
      -valueOf 0x7F7FFFFF#32 ≤ valueOf 0xFF7FFFFF#32 ∧ valueOf 0xFF7FFFFF#32 ≤ valueOf 0x7F7FFFFF#32) ∧
    (isNaN 0x80000001#32 = false ∧ valueOf 0x80000001#32 < 0) ∧
    (isNaN 0xFF800000#32 = false ∧ valueOf 0xFF800000#32 < 0) := by decide +kernel

/-- The state after reset with an integral and its bound. -/
def withIntegral (sat integ : Word) : State := withPidt ⟨0, 0, 0, sat, integ, 0⟩

theorem witness_SaturatedIntegralStaysAtTheBound :
    (isFinite 0x3F800000#32 = true ∧ 0 ≤ valueOf 0x3F800000#32 ∧ isFinite (fmul 0 0x3F000000 0x3F800000) = true ∧
      valueOf (fmul 0 0x3F000000 0x3F800000) ≠ 0 ∧
      (if 0 < valueOf (fmul 0 0x3F000000 0x3F800000) then 0x3F800000#32 else fneg 0x3F800000) = 0x3F800000#32) ∧
    (isFinite 0#32 = true ∧ 0 ≤ valueOf 0#32 ∧ valueOf (fmul 0 0xBF000000 0x3F800000) ≠ 0 ∧
      (if 0 < valueOf (fmul 0 0xBF000000 0x3F800000) then 0#32 else fneg 0) = 0x80000000#32) ∧
    (withIntegral 0x3F800000 0x3F800000).pidt[(0 : Byte).toNat]? = some ⟨0, 0, 0, 0x3F800000, 0x3F800000, 0⟩ ∧
    (withIntegral 0 0x80000000).pidt[(0 : Byte).toNat]? = some ⟨0, 0, 0, 0, 0x80000000, 0⟩ := by decide +kernel

theorem witness_NaNsPersistInFeedbackWords :
    isNaN 0x7FC00000#32 = true ∧
    (withCf1 0 0 0x7FC00000).cf1[(1 : Byte).toNat]? = some ⟨0, 0, 0x7FC00000⟩ ∧
    (withCf2 ⟨0, 0, 0, 0x7FC00000, 0⟩).cf2[(0 : Byte).toNat]? = some ⟨0, 0, 0, 0x7FC00000, 0⟩ ∧
    (withCf2 ⟨0, 0, 0, 0, 0x7FC00000⟩).cf2[(0 : Byte).toNat]? = some ⟨0, 0, 0, 0, 0x7FC00000⟩ ∧
    (withPidd ⟨0, 0, 0, 0, 0, 0, 0, 0, 0x7FC00000⟩).pidd[(0 : Byte).toNat]? =
      some ⟨0, 0, 0, 0, 0, 0, 0, 0, 0x7FC00000⟩ ∧
    (withIntegral 0 0x7FC00000).pidt[(0 : Byte).toNat]? = some ⟨0, 0, 0, 0, 0x7FC00000, 0⟩ ∧
    (withBiq 1 0 [{ Section.zero with s0 := 0x7FC00000 }]).biq[(0 : Byte).toNat]? =
      some { nsec := 1, gain := 0, secs := { Section.zero with s0 := 0x7FC00000 } :: List.replicate 3 Section.zero } ∧
    (withBiq 1 0 [{ Section.zero with s1 := 0x7FC00000 }]).biq[(0 : Byte).toNat]? =
      some { nsec := 1, gain := 0, secs := { Section.zero with s1 := 0x7FC00000 } :: List.replicate 3 Section.zero } := by
  decide

/-- FaddRoundsToNearestEven, FmulRoundsToNearestEven, FdivRoundsToNearestEven: hypotheses, near the bound too. -/
theorem witness_RoundingStatements :
    (isFinite 0x7F7FFFFF#32 = true ∧ isFinite 0x72FFFFFF#32 = true ∧ isFinite 0x3F800001#32 = true ∧
      isFinite 0x3F7FFFFF#32 = true ∧ isFinite 0x3F800000#32 = true ∧ isZero 0x3F800000#32 = false) ∧
    (valueOf 0x7F7FFFFF#32 + valueOf 0x72FFFFFF#32).natAbs < (2 ^ 25 - 1) * 2 ^ 252 ∧
    unitsOf 0x7F7FFFFF#32 * unitsOf 0x3F7FFFFF#32 < (2 ^ 25 - 1) * 2 ^ 252 * 2 ^ 149 ∧
    unitsOf 0x7F7FFFFF#32 * 2 ^ 149 < (2 ^ 25 - 1) * 2 ^ 252 * unitsOf 0x3F800000#32 ∧
    isFinite (fadd 0 0x7F7FFFFF 0x72FFFFFF) = true := by decide +kernel

/-- The same: the premises of their tie clauses. -/
theorem witness_RoundingStatements_ties :
    (let exact := valueOf 0x3F800001#32 + valueOf 0x33800000#32
     (valueOf (fadd 0 0x3F800001 0x33800000) - exact).natAbs = (valueOf 0x3F800001#32 - exact).natAbs ∧
     valueOf 0x3F800001#32 ≠ valueOf (fadd 0 0x3F800001 0x33800000)) ∧
    (let exact := valueOf 0x00000003#32 * valueOf 0x3F000000#32
     (valueOf (fmul 0 0x00000003 0x3F000000) * 2 ^ 149 - exact).natAbs =
       (valueOf 0x00000001#32 * 2 ^ 149 - exact).natAbs ∧
     valueOf 0x00000001#32 ≠ valueOf (fmul 0 0x00000003 0x3F000000)) ∧
    (let exact := valueOf 0x00000003#32 * 2 ^ 149
     (valueOf (fdiv 0 0x00000003 0x40000000) * valueOf 0x40000000#32 - exact).natAbs =
       (valueOf 0x00000001#32 * valueOf 0x40000000#32 - exact).natAbs ∧
     valueOf 0x00000001#32 ≠ valueOf (fdiv 0 0x00000003 0x40000000)) := by decide +kernel

theorem witness_SpecialValuesOfThePrimitives :
    isNaN 0x7F800001#32 = true ∧ isInf 0xFF800000#32 = true ∧ isInf 0x7F800000#32 = true ∧ isZero 0x80000000#32 = true ∧
    (isZero 0x00000001#32 = false ∧ isNaN 0x00000001#32 = false) ∧
    (2 ^ 25 - 1) * 2 ^ 252 ≤ (valueOf 0x7F7FFFFF#32 + valueOf 0x73000000#32).natAbs ∧
    isZero 0#32 = true ∧ isZero (fadd 0 0x3F800000 0xBF800000) = true ∧
    isZero (fsub 0 0x3F800000 0x3F800000) = true ∧
    (2 ^ 25 - 1) * 2 ^ 252 ≤ (valueOf 0xFF7FFFFF#32 - valueOf 0x73000000#32).natAbs ∧
    (2 ^ 25 - 1) * 2 ^ 252 * 2 ^ 149 ≤ unitsOf 0x7F7FFFFF#32 * unitsOf 0x40000000#32 ∧
    (2 ^ 25 - 1) * 2 ^ 252 * unitsOf 0x00000001#32 ≤ unitsOf 0x7F7FFFFF#32 * 2 ^ 149 ∧
    valueOf 0x3F800000#32 + valueOf 0xBF800000#32 = 0 := by decide +kernel

/-- The same: the premises of its infinities beside other operands. -/
theorem witness_SpecialValuesOfThePrimitives_infinities :
    isInf 0xFF800000#32 = true ∧ isInf 0x7F800000#32 = true ∧ (signOf 0xFF800000#32 != signOf 0x7F800000#32) = true ∧
    (signOf 0xFF800000#32 != signOf 0xFF800000#32) = false ∧
    (isFinite 0#32 = true ∧ isFinite 0x7F7FFFFF#32 = true) ∧
    (isNaN 0x00000001#32 = false ∧ isZero 0x00000001#32 = false) ∧
    (isNaN 0xFF800000#32 = false ∧ isZero 0xFF800000#32 = false) := by decide

/-- The same: the premises of its zero products and quotients, at the largest underflow. -/
theorem witness_SpecialValuesOfThePrimitives_zeros :
    (isFinite 0xBF800000#32 = true ∧ isZero 0#32 = true ∧ isInf 0x7F800000#32 = true) ∧
    isZero (fmul 0 0xBF800000 0) = true ∧ isZero (fdiv 0 0xBF800000 0x7F800000) = true ∧
    (isFinite 0x80000001#32 = true ∧ isFinite 0x3F000000#32 = true ∧
      2 * (unitsOf 0x80000001#32 * unitsOf 0x3F000000#32) = 2 ^ 149) ∧
    (isFinite 0x40000000#32 = true ∧ isZero 0x40000000#32 = false ∧
      2 * (unitsOf 0x80000001#32 * 2 ^ 149) = unitsOf 0x40000000#32) := by decide +kernel

/-- The signs of zero sums and differences (00_scope.md R11): +0 + +0, +0 - -0, -0 + +0, -0 - +0. -/
theorem test_signs_of_zero_sums :
    fadd 0 0 0 = 0 ∧ fsub 0 0 0x80000000 = 0 ∧ fadd 0 0x80000000 0 = 0 ∧ fsub 0 0x80000000 0 = 0x80000000 := by
  decide

/-- The signs of those zeros (00_scope.md R11): -1 * +0, -1 / +inf, and two underflows of the least negative number. -/
theorem test_signs_of_zeros :
    fmul 0 0xBF800000 0 = 0x80000000 ∧ fdiv 0 0xBF800000 0x7F800000 = 0x80000000 ∧
    fmul 0 0x80000001 0x3F000000 = 0x80000000 ∧ fdiv 0 0x80000001 0x40000000 = 0x80000000 := by decide +kernel

theorem witness_NaNResultsAreQuiet : isNaN (fdiv 0 0 0) = true := by
  rw [show fdiv 0 0 0 = drawNaN 0 from rfl]
  exact isNaN_drawNaN 0

theorem witness_NegationAndComparisonAreExact : isNaN 0x7FC00000#32 = true ∧ isNaN 0xFF800000#32 = false := by decide

theorem witness_PayloadBytesArePackedLittleEndian :
    State.reset.wf = true ∧ (1 : Byte).toNat < State.reset.params.nDb ∧
    ([1, 2, 3, 4, 5, 6, 7, 8] : List Byte).length ≤ 4 * State.reset.params.dbSlotWords ∧
    ([1, 2, 3, 4, 5, 6, 7, 8] : List Byte)[7]? = some 8 ∧
    (State.resetWith { Config.params with dbSlotWords := 1 }).wf = true ∧ ([1, 2, 3, 4] : List Byte)[3]? = some 4 := by
  decide

theorem witness_FsubRoundsToNearestEven :
    isFinite 0x3F800001#32 = true ∧ isFinite 0xB3800000#32 = true ∧
    (let exact := valueOf 0x3F800001#32 - valueOf 0xB3800000#32
     exact.natAbs < (2 ^ 25 - 1) * 2 ^ 252 ∧
     (valueOf (fsub 0 0x3F800001 0xB3800000) - exact).natAbs = (valueOf 0x3F800001#32 - exact).natAbs ∧
     valueOf 0x3F800001#32 ≠ valueOf (fsub 0 0x3F800001 0xB3800000)) := by decide +kernel

-- 00_scope.md R10, R11 by hand: 2^127*(2-2^-23) + 2^102 stays finite, + 2^103 is an infinity; 1 - 2^-24 is exact
theorem test_overflow_boundary :
    fadd 0 0x7F7FFFFF 0x72800000 = 0x7F7FFFFF ∧ fadd 0 0x7F7FFFFF 0x73000000 = 0x7F800000 ∧
    fsub 0 0x3F800000 0x33800000 = 0x3F7FFFFF := by decide +kernel

end Sys2Proof.Tests
end

section
/-! SUPPORT. The invariant of the block as a structure with named parts, and what keeps it: one lemma per state update,
one for a command's outcome, one for the commands and one for a step. -/
namespace Sys2Proof.Proofs
open Sys2Proof Sys2Proof.Machine

/-! ### STATUS and its record (10_state.md R33, 60_exceptions.md R141) -/

/-- A port's part of STATUS is as 10_state.md R33 has it: a code of R138 beside a set sticky bit, 0 beside a clear
one. -/
def PortRecordFits (p : Port) (st : Word) : Prop :=
  if statusIll p st then 1 ≤ (statusCause p st).toNat ∧ (statusCause p st).toNat ≤ 8 else statusCause p st = 0#4

theorem statusWf_iff (st : Word) :
    statusWf st = true ↔ st &&& 0xFFFF00FC#32 = 0#32 ∧ ∀ p, PortRecordFits p st := by
  have ports : (∀ p, PortRecordFits p st) ↔ PortRecordFits .r st ∧ PortRecordFits .w st :=
    ⟨fun h => ⟨h .r, h .w⟩, fun ⟨hr, hw⟩ p => by cases p <;> assumption⟩
  rw [ports]
  unfold statusWf PortRecordFits
  cases statusIll .r st <;> cases statusIll .w st <;> simp [and_assoc]

/-- The record of a cause sets the port's sticky bit. -/
theorem statusIll_recordCause_same (p : Port) (c : Cause) (st : Word) (h : statusIll p st = false) :
    statusIll p (recordCause p c st) = true := by
  cases p
  · simp [statusIll, recordCause_getLsbD_r c st h]
  · simp [statusIll, recordCause_getLsbD_w c st h]

/-- The record of a cause puts its code in the port's cause field. -/
theorem statusCause_recordCause_same (p : Port) (c : Cause) (st : Word) (h : statusIll p st = false) :
    statusCause p (recordCause p c st) = causeCode c := by
  cases p <;> ext i hi <;> simp only [statusCause, BitVec.getElem_extractLsb']
  · rw [recordCause_getLsbD_r c st h, if_neg (by omega), if_pos (by omega), Nat.add_sub_cancel_left,
      BitVec.getLsbD_eq_getElem hi]
  · rw [recordCause_getLsbD_w c st h, if_neg (by omega), if_pos (by omega), Nat.add_sub_cancel_left,
      BitVec.getLsbD_eq_getElem hi]

/-- The record of a cause leaves the other port's sticky bit and cause field alone (60_exceptions.md R142). -/
theorem recordCause_other {p q : Port} (hpq : p ≠ q) (c : Cause) (st : Word) (h : statusIll p st = false) :
    statusIll q (recordCause p c st) = statusIll q st ∧ statusCause q (recordCause p c st) = statusCause q st := by
  cases p <;> cases q
  case r.r | w.w => exact absurd rfl hpq
  case r.w =>
    refine ⟨by simp only [statusIll]; rw [recordCause_getLsbD_r c st h]; rfl, ?_⟩
    ext i hi
    simp only [statusCause, BitVec.getElem_extractLsb']
    rw [recordCause_getLsbD_r c st h, if_neg (by omega), if_neg (by omega)]
  case w.r =>
    refine ⟨by simp only [statusIll]; rw [recordCause_getLsbD_w c st h]; rfl, ?_⟩
    ext i hi
    simp only [statusCause, BitVec.getElem_extractLsb']
    rw [recordCause_getLsbD_w c st h, if_neg (by omega), if_neg (by omega)]

/-- The record of a cause leaves the unlisted bits of STATUS alone (10_state.md R33). -/
theorem recordCause_unlisted (p : Port) (c : Cause) (st : Word) (h : statusIll p st = false) :
    recordCause p c st &&& 0xFFFF00FC#32 = st &&& 0xFFFF00FC#32 := by
  have mask : ∀ i < 32, (0xFFFF00FC#32).getLsbD i = true → i ≠ 0 ∧ i ≠ 1 ∧ ¬ (8 ≤ i ∧ i < 16) := by decide
  apply BitVec.eq_of_getLsbD_eq
  intro i hi
  rw [BitVec.getLsbD_and, BitVec.getLsbD_and]
  cases hm : (0xFFFF00FC#32).getLsbD i with
  | false => simp
  | true =>
    obtain ⟨h0, h1, h8⟩ := mask i hi hm
    cases p
    · rw [recordCause_getLsbD_r c st h, if_neg h0, if_neg (by omega)]
    · rw [recordCause_getLsbD_w c st h, if_neg h1, if_neg (by omega)]

/-- The record of any cause on any port keeps STATUS as 10_state.md R33 has it. -/
theorem statusWf_recordCause (p : Port) (c : Cause) (st : Word) (h : statusWf st = true) :
    statusWf (recordCause p c st) = true := by
  cases hp : statusIll p st with
  | true => rwa [recordCause_kept hp]
  | false =>
    rw [statusWf_iff] at h ⊢
    obtain ⟨unlisted, ports⟩ := h
    refine ⟨(recordCause_unlisted p c st hp).trans unlisted, fun q => ?_⟩
    by_cases hq : p = q
    · subst hq
      rw [PortRecordFits, statusIll_recordCause_same p c st hp, statusCause_recordCause_same p c st hp]
      exact causeCode_range c
    · obtain ⟨ill, cause⟩ := recordCause_other hq c st hp
      rw [PortRecordFits, ill, cause]
      exact ports q

/-! ### The invariant's parts -/

/-- A double buffer has as many slot words as the parameters say (10_state.md R25). -/
def DbFits (m : Params) (d : DbInst) : Prop := d.slot0.length = m.dbSlotWords ∧ d.slot1.length = m.dbSlotWords

/-- A cascade has as many sections as the parameters say, and NSEC in its range (10_state.md R26). -/
def BiqFits (m : Params) (b : BiqInst) : Prop := b.secs.length = m.biqMaxSec ∧ b.nsec.toNat ≤ m.biqMaxSec

/-- `State.wf` with its parts named (`wf_iff`). -/
structure Fits (s : State) : Prop where
  legal : s.params.legal = true
  dbCount : s.db.length = s.params.nDb
  biqCount : s.biq.length = s.params.nBiq
  cf1Count : s.cf1.length = s.params.nCf1
  cf2Count : s.cf2.length = s.params.nCf2
  piddCount : s.pidd.length = s.params.nPidd
  pidtCount : s.pidt.length = s.params.nPidt
  db : ∀ d ∈ s.db, DbFits s.params d
  biq : ∀ b ∈ s.biq, BiqFits s.params b
  status : statusWf s.status = true

theorem wf_iff (s : State) : s.wf = true ↔ Fits s := by
  simp only [State.wf, Bool.and_eq_true, beq_iff_eq, List.all_eq_true, decide_eq_true_eq]
  constructor
  · rintro ⟨⟨⟨⟨⟨⟨⟨⟨⟨legal, db⟩, biq⟩, cf1⟩, cf2⟩, pidd⟩, pidt⟩, dbs⟩, biqs⟩, status⟩
    exact ⟨legal, db, biq, cf1, cf2, pidd, pidt, dbs, biqs, status⟩
  · rintro ⟨legal, db, biq, cf1, cf2, pidd, pidt, dbs, biqs, status⟩
    exact ⟨⟨⟨⟨⟨⟨⟨⟨⟨legal, db⟩, biq⟩, cf1⟩, cf2⟩, pidd⟩, pidt⟩, dbs⟩, biqs⟩, status⟩

/-! ### Double buffers -/

theorem dbFits_zero (m : Params) : DbFits m (DbInst.zero m.dbSlotWords) := by
  simp [DbFits, DbInst.zero]

theorem dbFits_dbAt {s : State} (hs : Fits s) (inst : Byte) : DbFits s.params (s.dbAt inst) := by
  unfold State.dbAt
  rw [List.getD_eq_getElem?_getD]
  cases hd : s.db[inst.toNat]? with
  | none => exact dbFits_zero _
  | some d => exact hs.db d (List.mem_of_getElem? hd)

/-- A payload of the slot size keeps a buffer's slots at that size (40_double_buffer.md R83). -/
theorem dbFits_publish {m : Params} {d : DbInst} (hd : DbFits m d) {payload : List Word}
    (hp : payload.length = m.dbSlotWords) : DbFits m (d.publish payload) := by
  obtain ⟨h0, h1⟩ := hd
  unfold DbInst.publish
  cases d.rsel
  · exact ⟨h0, hp⟩
  · exact ⟨hp, h1⟩

/-- A slot has at most two words (00_scope.md R6), so a DB.WRITE has an operand word for each. -/
theorem slotWords_le_two {m : Params} (h : m.legal = true) : m.dbSlotWords ≤ 2 := by
  simp only [Params.legal, Bool.and_eq_true, decide_eq_true_eq] at h
  exact h.2

/-! ### Cascades -/

theorem biqFits_zero (m : Params) : BiqFits m (BiqInst.zero m.biqMaxSec) := by
  simp [BiqFits, BiqInst.zero]

theorem biqFits_biqAt {s : State} (hs : Fits s) (inst : Byte) : BiqFits s.params (s.biqAt inst) := by
  unfold State.biqAt
  rw [List.getD_eq_getElem?_getD]
  cases hb : s.biq[inst.toNat]? with
  | none => exact biqFits_zero _
  | some b => exact hs.biq b (List.mem_of_getElem? hb)

/-- Other sections in the same number keep a cascade's shape. -/
theorem biqFits_withSecs {m : Params} {b : BiqInst} (hb : BiqFits m b) {secs : List Section}
    (h : secs.length = b.secs.length) : BiqFits m { b with secs := secs } :=
  ⟨h.trans hb.1, hb.2⟩

/-- Writing a register keeps a cascade's shape, where a value for NSEC is in range (41_biquad.md R91). -/
theorem biqFits_write {m : Params} {b : BiqInst} (hb : BiqFits m b) (v : Word) (reg : BiqReg)
    (hv : reg = .nsec → v.toNat ≤ m.biqMaxSec) : BiqFits m (b.write v reg) := by
  cases reg with
  | nsec => exact ⟨hb.1, hv rfl⟩
  | gain => exact hb
  | sec j r => exact biqFits_withSecs hb (List.length_set ..)

/-- A BIQ.WREG that passes every check and names NSEC has a value in range (60_exceptions.md R139, check 6c). -/
theorem nsec_le_of_wregChecks {s : State} {n : Nat} {inst : Byte} {op0 : Word} {reg : Option BiqReg}
    (h : firstFailing (s.wregChecks n inst (reg.map biqClass) ++
      [(reg == some .nsec && decide (s.params.biqMaxSec < op0.toNat), .badValue)]) = none)
    (hreg : reg = some .nsec) : op0.toNat ≤ s.params.biqMaxSec := by
  subst hreg
  by_contra hgt
  rw [firstFailing_wregChecks] at h
  split_ifs at h
  simp [Nat.lt_of_not_le hgt] at h

/-! ### State updates -/

section
variable {s : State}

theorem Fits.respond (hs : Fits s) (r : Resp) : Fits (s.respond r) := { hs with }

theorem Fits.drew (hs : Fits s) (n : Nat) : Fits (s.drew n) := { hs with }

theorem Fits.serve (hs : Fits s) (p : Port) : Fits (s.serve p) := { hs with }

theorem Fits.withInputs (hs : Fits s) (rest : List Event) : Fits { s with inputs := rest } := { hs with }

theorem Fits.withStatus (hs : Fits s) {st : Word} (h : statusWf st = true) : Fits { s with status := st } :=
  { hs with status := h }

theorem Fits.raiseIllegal (hs : Fits s) (c : Cause) : Fits (s.raiseIllegal c) :=
  (hs.withStatus (statusWf_recordCause s.port c s.status hs.status)).respond _

theorem Fits.setDb (hs : Fits s) (inst : Byte) {d : DbInst} (hd : DbFits s.params d) : Fits (s.setDb inst d) :=
  { hs with
    dbCount := (List.length_set ..).trans hs.dbCount
    db := fun e he => (List.mem_or_eq_of_mem_set he).elim (hs.db e) (fun h => h ▸ hd) }

theorem Fits.setBiq (hs : Fits s) (inst : Byte) {b : BiqInst} (hb : BiqFits s.params b) : Fits (s.setBiq inst b) :=
  { hs with
    biqCount := (List.length_set ..).trans hs.biqCount
    biq := fun e he => (List.mem_or_eq_of_mem_set he).elim (hs.biq e) (fun h => h ▸ hb) }

theorem Fits.setCf1 (hs : Fits s) (inst : Byte) (c : Cf1Inst) : Fits (s.setCf1 inst c) :=
  { hs with cf1Count := (List.length_set ..).trans hs.cf1Count }

theorem Fits.setCf2 (hs : Fits s) (inst : Byte) (c : Cf2Inst) : Fits (s.setCf2 inst c) :=
  { hs with cf2Count := (List.length_set ..).trans hs.cf2Count }

theorem Fits.setPidd (hs : Fits s) (inst : Byte) (c : PiddInst) : Fits (s.setPidd inst c) :=
  { hs with piddCount := (List.length_set ..).trans hs.piddCount }

theorem Fits.setPidt (hs : Fits s) (inst : Byte) (c : PidtInst) : Fits (s.setPidt inst c) :=
  { hs with pidtCount := (List.length_set ..).trans hs.pidtCount }

/-- A block reset fills every family with reset values, as many as the parameters say (70_reset_and_hazards.md R156,
R157). -/
theorem Fits.blockReset (hs : Fits s) (rDiscarded wDiscarded : Bool) : Fits (s.blockReset rDiscarded wDiscarded) where
  legal := by simpa using hs.legal
  dbCount := by simp
  biqCount := by simp
  cf1Count := by simp
  cf2Count := by simp
  piddCount := by simp
  pidtCount := by simp
  db d hd := by
    rw [State.blockReset_db] at hd
    rw [State.blockReset_params, List.eq_of_mem_replicate hd]
    exact dbFits_zero _
  biq b hb := by
    rw [State.blockReset_biq] at hb
    rw [State.blockReset_params, List.eq_of_mem_replicate hb]
    exact biqFits_zero _
  status := by rw [State.blockReset_status]; decide

end

/-! ### Commands and steps -/

/-- A command's outcome fits the parameters if its effect does where every check passes. -/
theorem fits_of_conclude {s t u : State} {cs : List (Bool × Cause)} (h : s.conclude cs t = .next u) (hs : Fits s)
    (ht : firstFailing cs = none → Fits t) : Fits u := by
  obtain ⟨c, -, rfl⟩ | ⟨pass, rfl⟩ := conclude_cases h
  · exact hs.raiseIllegal c
  · exact ht pass

/-- Every command keeps the invariant, on either port. -/
theorem fits_of_exec {i : Instr} {s t : State} (h : exec i s = .next t) (hs : Fits s) : Fits t := by
  cases i with
  | sysNop | sysStatR | sysParamR | dbRreg | biqRreg | cf1Rreg | cf2Rreg | piddRreg | pidtRreg =>
    exact fits_of_conclude h hs fun _ => hs.respond _
  | sysStatC => exact fits_of_conclude h hs fun _ => (hs.withStatus (by decide)).respond _
  | dbInit inst => exact fits_of_conclude h hs fun _ => (hs.setDb inst (dbFits_zero _)).respond _
  | dbRead inst =>
    have read : DbFits s.params { s.dbAt inst with fresh := false } := dbFits_dbAt hs inst
    exact fits_of_conclude h hs fun _ => (hs.setDb inst read).respond _
  | dbWrite inst idx op0 op1 =>
    have payload : ([op0, op1].take s.params.dbSlotWords).length = s.params.dbSlotWords := by
      rw [List.length_take]
      exact Nat.min_eq_left (slotWords_le_two hs.legal)
    exact fits_of_conclude h hs fun _ => (hs.setDb inst (dbFits_publish (dbFits_dbAt hs inst) payload)).respond _
  | biqInit inst =>
    exact fits_of_conclude h hs fun _ =>
      (hs.setBiq inst (biqFits_withSecs (biqFits_biqAt hs inst) (List.length_map ..))).respond _
  | biqWreg inst idx op0 =>
    refine fits_of_conclude h hs fun pass => (hs.setBiq inst ?_).respond _
    cases hreg : biqReg s.params.biqMaxSec idx with
    | none => exact biqFits_biqAt hs inst
    | some reg =>
      exact biqFits_write (biqFits_biqAt hs inst) op0 reg fun hn => nsec_le_of_wregChecks pass (hn ▸ hreg)
  | biqSample inst =>
    exact fits_of_conclude h hs fun _ =>
      ((hs.setBiq inst (biqFits_withSecs (biqFits_biqAt hs inst) (cascade_length ..))).drew _).respond _
  | cf1Init inst | cf1Wreg inst => exact fits_of_conclude h hs fun _ => (hs.setCf1 inst _).respond _
  | cf1SampleAcc inst | cf1SampleGyr inst => exact fits_of_conclude h hs fun _ => ((hs.setCf1 inst _).drew _).respond _
  | cf2Init inst | cf2Wreg inst => exact fits_of_conclude h hs fun _ => (hs.setCf2 inst _).respond _
  | cf2SampleAcc inst | cf2SampleGyr inst => exact fits_of_conclude h hs fun _ => ((hs.setCf2 inst _).drew _).respond _
  | piddWreg inst => exact fits_of_conclude h hs fun _ => (hs.setPidd inst _).respond _
  | piddInit inst | piddCalc inst => exact fits_of_conclude h hs fun _ => ((hs.setPidd inst _).drew _).respond _
  | pidtInit inst | pidtWreg inst => exact fits_of_conclude h hs fun _ => (hs.setPidt inst _).respond _
  | pidtCalc inst => exact fits_of_conclude h hs fun _ => ((hs.setPidt inst _).drew _).respond _

/-- What a step can do: hold the state with no event to take, reset the block, raise IllegalCommand for a word that
does not decode, or run the command of one that does. -/
theorem step_cases {s t : State} (h : step s = .next t) :
    (s.inputs = [] ∧ t = s) ∨
    (∃ rd wd rest, s.inputs = .reset rd wd :: rest ∧ t = { s with inputs := rest }.blockReset rd wd) ∨
    (∃ p q rest c, s.inputs = .command p q :: rest ∧ decode q = .error c ∧
      t = ({ s with inputs := rest }.serve p).raiseIllegal c) ∨
    (∃ p q rest i, s.inputs = .command p q :: rest ∧ decode q = .ok i ∧
      exec i ({ s with inputs := rest }.serve p) = .next t) := by
  cases hin : s.inputs with
  | nil =>
    simp only [step, nextEvent_nil hin, Host.Outcome.next.injEq] at h
    exact .inl ⟨rfl, h.symm⟩
  | cons e rest =>
    cases e with
    | reset rd wd =>
      simp only [step, nextEvent_cons hin, Host.Outcome.next.injEq] at h
      exact .inr (.inl ⟨rd, wd, rest, rfl, h.symm⟩)
    | command p q =>
      simp only [step, nextEvent_cons hin] at h
      cases hq : decode q with
      | error c =>
        simp only [hq, Host.Outcome.next.injEq] at h
        exact .inr (.inr (.inl ⟨p, q, rest, c, rfl, hq, h.symm⟩))
      | ok i =>
        simp only [hq] at h
        exact .inr (.inr (.inr ⟨p, q, rest, i, rfl, hq, h⟩))

/-- Every step keeps the invariant. -/
theorem fits_of_step {s t : State} (h : step s = .next t) (hs : Fits s) : Fits t := by
  obtain ⟨-, rfl⟩ | ⟨rd, wd, rest, -, rfl⟩ | ⟨p, q, rest, c, -, -, rfl⟩ | ⟨p, q, rest, i, -, -, hexec⟩ := step_cases h
  · exact hs
  · exact (hs.withInputs rest).blockReset rd wd
  · exact ((hs.withInputs rest).serve p).raiseIllegal c
  · exact fits_of_exec hexec ((hs.withInputs rest).serve p)

/-- Settles O13: the invariant is kept by a step whatever its event is, by `step_cases` and one lemma per state update
that a command is made of. -/
theorem everyStepKeepsTheInvariant : Obligations.EveryStepKeepsTheInvariant := by
  intro s t hs h
  rw [wf_iff] at hs ⊢
  exact fits_of_step h hs

end Sys2Proof.Proofs
end

section
/-! SUPPORT. The rules of the binary32 primitives, one per case of 00_scope.md R10 and R11: which class a pattern is in,
what each primitive gives for operands of each class, and where a rounded magnitude is zero or infinite. -/
namespace Sys2Proof.Proofs
open Sys2Proof Sys2Proof.Machine

/-! ### Classes of patterns -/

/-- A pattern is finite exactly where it is neither a NaN nor an infinity. -/
theorem isFinite_eq (a : Word) : isFinite a = (!isNaN a && !isInf a) := by
  unfold isFinite isNaN isInf
  cases he : expoOf a == 255 <;> cases hf : fracOf a == 0 <;> simp_all [bne]

theorem isNaN_of_isFinite {a : Word} (h : isFinite a = true) : isNaN a = false := by
  rw [isFinite_eq] at h; simp_all

theorem isInf_of_isFinite {a : Word} (h : isFinite a = true) : isInf a = false := by
  rw [isFinite_eq] at h; simp_all

theorem isNaN_of_isInf {a : Word} (h : isInf a = true) : isNaN a = false := by
  unfold isInf at h
  unfold isNaN
  simp_all

theorem isFinite_of_isZero {a : Word} (h : isZero a = true) : isFinite a = true := by
  unfold isZero at h
  unfold isFinite
  simp_all

theorem isZero_of_isInf {a : Word} (h : isInf a = true) : isZero a = false := by
  cases hz : isZero a with
  | false => rfl
  | true => rw [isInf_of_isFinite (isFinite_of_isZero hz)] at h; exact absurd h (by decide)

/-- The zeros are the patterns without magnitude. -/
theorem isZero_iff_unitsOf (a : Word) : isZero a = true ↔ unitsOf a = 0 := by
  unfold isZero unitsOf
  by_cases he : expoOf a = 0 <;> simp [he]

theorem isZero_drawNaN (k : Nat) : isZero (drawNaN k) = false := by
  cases hz : isZero (drawNaN k) with
  | false => rfl
  | true => exact absurd (isNaN_of_isFinite (isFinite_of_isZero hz)) (by simp)

theorem isNaN_packSign (neg : Bool) (mag : Nat) (h : mag ≤ 0x7F800000) : isNaN (packSign neg mag) = false := by
  unfold isNaN
  rw [expoOf_packSign neg mag (by omega), fracOf_packSign neg mag (by omega)]
  rw [Bool.and_eq_false_iff, beq_eq_false_iff_ne, bne_eq_false_iff_eq]
  omega

theorem isZero_packSign (neg : Bool) (mag : Nat) (h : mag < 2 ^ 31) : isZero (packSign neg mag) = true ↔ mag = 0 := by
  unfold isZero
  rw [expoOf_packSign neg mag h, fracOf_packSign neg mag h, Bool.and_eq_true, beq_iff_eq, beq_iff_eq]
  omega

/-- The infinities as patterns. -/
theorem infOf_eq (neg : Bool) : infOf neg = if neg then 0xFF800000#32 else 0x7F800000#32 := by
  cases neg <;> rfl

/-- The zeros as patterns. -/
theorem zeroOf_eq (neg : Bool) : zeroOf neg = if neg then 0x80000000#32 else 0#32 := by
  cases neg <;> rfl

/-- The quiet bits of a primitive's NaN: exponent all ones and bit 22 set (00_scope.md R12). -/
theorem drawNaN_quiet (k : Nat) :
    (drawNaN k).extractLsb' 23 8 = 0xFF#8 ∧ (drawNaN k).getLsbD 22 = true := by
  have ones : ∀ j < 9, (0x1FF#9).getLsbD j = true := by decide
  have bits : ∀ j < 9, (drawNaN k).getLsbD (22 + j) = true := by
    intro j hj
    simp only [drawNaN, BitVec.getLsbD_append, show ¬ 22 + j < 22 by omega, if_false,
      show 22 + j - 22 = j by omega, hj, if_true]
    exact ones j hj
  refine ⟨?_, bits 0 (by decide)⟩
  apply BitVec.eq_of_getLsbD_eq
  intro i hi
  have octet : ∀ j < 8, (0xFF#8).getLsbD j = true := by decide
  rw [octet i hi, BitVec.getLsbD_extractLsb', show 23 + i = 22 + (1 + i) by omega, bits (1 + i) (by omega)]
  simp [hi]

/-! ### Values -/

/-- The number with a sign and a magnitude. -/
def signed (neg : Bool) (n : Nat) : Int := if neg then -(n : Int) else (n : Int)

theorem valueOf_eq (a : Word) : valueOf a = signed (signOf a) (unitsOf a) := rfl

@[simp] theorem signed_zero (neg : Bool) : signed neg 0 = 0 := by cases neg <;> rfl

/-- Signs multiply as the product's sign rule says. -/
theorem signed_mul_signed (p q : Bool) (m n : Nat) : signed p m * signed q n = signed (p != q) (m * n) := by
  cases p <;> cases q <;> simp [signed]

theorem signed_mul_natCast (p : Bool) (m n : Nat) : signed p m * (n : Int) = signed p (m * n) := by
  cases p <;> simp [signed]

/-- A number is the signed one of its magnitude, with the sign bit of a negative number. -/
theorem signed_natAbs (z : Int) : signed (decide (z < 0)) z.natAbs = z := by
  by_cases h : z < 0
  · simp only [signed, h, decide_true, if_true]; omega
  · simp only [signed, h, decide_false, Bool.false_eq_true, if_false]; omega

/-! ### Rounding to zero and to infinity -/

/-- At most half a unit rounds to zero (00_scope.md R10: the tie is even). -/
theorem roundMag_eq_zero {num den : Nat} (hd : 0 < den) (h : 2 * num ≤ den) : roundMag num den = 0 := by
  have hq : num / den = 0 := Nat.div_eq_of_lt (by omega)
  have hr : num % den = num := Nat.mod_eq_of_lt (by omega)
  have hround : roundDiv num den = 0 := by
    simp only [roundDiv, hq, hr]
    rw [if_neg (by omega)]
  simp [roundMag, hq, hround]

theorem magUnits_zero : magUnits 0 = 0 := rfl

theorem magUnits_one : magUnits 1 = 1 := rfl

/-- A whole number of units does not round to zero: one unit is nearer to it. -/
theorem roundMag_one_ne_zero {n : Nat} (hn : n ≠ 0) : roundMag n 1 ≠ 0 := by
  intro h
  have nearest := (roundMag_nearest n 1 1 (by decide) (by omega)).1
  rw [h, magUnits_zero, magUnits_one] at nearest
  omega

/-- From half-way from the largest finite magnitude to 2^128 on, a magnitude rounds to the infinity (00_scope.md R11):
2^128 is as near as the largest finite one, whose significand is odd. -/
theorem roundMag_overflow {num den : Nat} (hd : 0 < den) (h : (2 ^ 25 - 1) * 2 ^ 252 * den ≤ num) :
    roundMag num den = 0x7F800000 := by
  by_contra hne
  have hlt : roundMag num den ≤ 0x7F7FFFFF := by have := roundMag_le num den; omega
  obtain ⟨near, even⟩ := roundMag_nearest num den 0x7F800000 hd hne
  have largest : magUnits 0x7F7FFFFF = (2 ^ 25 - 2) * 2 ^ 252 := by norm_num [magUnits]
  have infinite : magUnits 0x7F800000 = 2 ^ 25 * 2 ^ 252 := by norm_num [magUnits]
  have hle : magUnits (roundMag num den) * den ≤ (2 ^ 25 - 2) * (2 ^ 252 * den) := by
    rw [← Nat.mul_assoc, ← largest]
    exact Nat.mul_le_mul_right _ (magUnits_strictMono.monotone hlt)
  have hP : 0 < 2 ^ 252 * den := Nat.mul_pos (Nat.two_pow_pos _) hd
  have hodd : magUnits (roundMag num den) * den = (2 ^ 25 - 2) * (2 ^ 252 * den) → roundMag num den % 2 = 1 := by
    intro heq
    rw [← Nat.mul_assoc, ← largest] at heq
    rw [magUnits_strictMono.injective (Nat.eq_of_mul_eq_mul_right hd heq)]
  have hinf : magUnits 0x7F800000 ≠ magUnits (roundMag num den) :=
    (magUnits_strictMono (Nat.lt_of_le_of_lt hlt (by decide))).ne'
  rw [Nat.mul_assoc] at h
  rw [infinite, Nat.mul_assoc] at near even
  rw [infinite] at hinf
  generalize 2 ^ 252 * den = P at *
  generalize magUnits (roundMag num den) * den = x at *
  have := fun tie => even tie hinf
  omega

/-! ### Addition and subtraction -/

section
variable {a b : Word} (k : Nat)

theorem fsub_eq_fadd (a b : Word) : fsub k a b = fadd k a (fneg b) := rfl

theorem fadd_inf_inf (ha : isInf a = true) (hb : isInf b = true) :
    fadd k a b = if signOf a != signOf b then drawNaN k else a := by
  simp [fadd, isNaN_of_isInf ha, isNaN_of_isInf hb, ha, hb]

theorem fadd_inf_finite (ha : isInf a = true) (hb : isFinite b = true) : fadd k a b = a := by
  simp [fadd, isNaN_of_isInf ha, isNaN_of_isFinite hb, ha, isInf_of_isFinite hb]

theorem fadd_finite_inf (ha : isFinite a = true) (hb : isInf b = true) : fadd k a b = b := by
  simp [fadd, isNaN_of_isFinite ha, isNaN_of_isInf hb, isInf_of_isFinite ha, hb]

theorem fadd_exact_zero (ha : isFinite a = true) (hb : isFinite b = true) (h : valueOf a + valueOf b = 0) :
    fadd k a b = zeroOf (signOf a && signOf b) := by
  simp [fadd, isNaN_of_isFinite ha, isNaN_of_isFinite hb, isInf_of_isFinite ha, isInf_of_isFinite hb, h]

theorem fadd_nonzero (ha : isFinite a = true) (hb : isFinite b = true) (h : valueOf a + valueOf b ≠ 0) :
    fadd k a b =
      packSign (decide (valueOf a + valueOf b < 0)) (roundMag (valueOf a + valueOf b).natAbs 1) := by
  simp [fadd, isNaN_of_isFinite ha, isNaN_of_isFinite hb, isInf_of_isFinite ha, isInf_of_isFinite hb, h]

/-- The sum of finite numbers is the exact sum rounded once, zero sums included: the sign is free there. -/
theorem fadd_rounds (ha : isFinite a = true) (hb : isFinite b = true) :
    ∃ neg, fadd k a b = packSign neg (roundMag (valueOf a + valueOf b).natAbs 1) ∧
      valueOf a + valueOf b = signed neg (valueOf a + valueOf b).natAbs := by
  by_cases hz : valueOf a + valueOf b = 0
  · refine ⟨signOf a && signOf b, ?_, by simp [hz]⟩
    rw [fadd_exact_zero k ha hb hz, hz, Int.natAbs_zero, roundMag_eq_zero Nat.one_pos (by decide)]
    rfl
  · exact ⟨_, fadd_nonzero k ha hb hz, (signed_natAbs _).symm⟩

/-- From the overflow bound on a sum is the infinity of its sign (00_scope.md R11). -/
theorem fadd_overflow (ha : isFinite a = true) (hb : isFinite b = true)
    (h : (2 ^ 25 - 1) * 2 ^ 252 ≤ (valueOf a + valueOf b).natAbs) :
    fadd k a b = infOf (decide (valueOf a + valueOf b < 0)) := by
  have hz : valueOf a + valueOf b ≠ 0 := by
    intro hz
    rw [hz] at h
    exact absurd h (by decide)
  rw [fadd_nonzero k ha hb hz, roundMag_overflow Nat.one_pos (by rwa [Nat.mul_one])]
  rfl

/-- A sum of finite numbers is a zero only where it is exactly zero: no sum underflows. -/
theorem sum_eq_zero_of_isZero_fadd (ha : isFinite a = true) (hb : isFinite b = true)
    (h : isZero (fadd k a b) = true) : valueOf a + valueOf b = 0 := by
  by_contra hz
  have hle := roundMag_le (valueOf a + valueOf b).natAbs 1
  rw [fadd_nonzero k ha hb hz, isZero_packSign _ _ (by omega)] at h
  exact roundMag_one_ne_zero (Int.natAbs_ne_zero.2 hz) h

/-! ### Multiplication -/

theorem fmul_comm (a b : Word) : fmul k a b = fmul k b a := by
  unfold fmul
  simp only [Bool.or_comm (isNaN a), Bool.or_comm (isInf a), Bool.or_comm (isZero a), Nat.mul_comm (unitsOf a),
    Bool.xor_comm (signOf a), Bool.bne_eq_xor]

theorem fmul_inf (ha : isInf a = true) (hb : isNaN b = false) (hz : isZero b = false) :
    fmul k a b = infOf (signOf a != signOf b) := by
  simp [fmul, isNaN_of_isInf ha, hb, ha, isZero_of_isInf ha, hz]

theorem fmul_zero_inf (ha : isZero a = true) (hb : isInf b = true) : fmul k a b = drawNaN k := by
  simp [fmul, isNaN_of_isFinite (isFinite_of_isZero ha), isNaN_of_isInf hb, ha, hb]

/-- The product of finite numbers is the exact product rounded once. -/
theorem fmul_rounds (ha : isFinite a = true) (hb : isFinite b = true) :
    fmul k a b = packSign (signOf a != signOf b) (roundMag (unitsOf a * unitsOf b) (2 ^ 149)) := by
  simp [fmul, isNaN_of_isFinite ha, isNaN_of_isFinite hb, isInf_of_isFinite ha, isInf_of_isFinite hb]

theorem fmul_overflow (ha : isFinite a = true) (hb : isFinite b = true)
    (h : (2 ^ 25 - 1) * 2 ^ 252 * 2 ^ 149 ≤ unitsOf a * unitsOf b) : fmul k a b = infOf (signOf a != signOf b) := by
  rw [fmul_rounds k ha hb, roundMag_overflow (Nat.two_pow_pos _) h]
  rfl

/-- A product of at most half a unit is the zero of its sign. -/
theorem fmul_underflow (ha : isFinite a = true) (hb : isFinite b = true)
    (h : 2 * (unitsOf a * unitsOf b) ≤ 2 ^ 149) : fmul k a b = zeroOf (signOf a != signOf b) := by
  rw [fmul_rounds k ha hb, roundMag_eq_zero (Nat.two_pow_pos _) h]
  rfl

theorem fmul_zero (ha : isZero a = true) (hb : isFinite b = true) :
    fmul k a b = zeroOf (signOf a != signOf b) :=
  fmul_underflow k (isFinite_of_isZero ha) hb (by rw [(isZero_iff_unitsOf a).1 ha, Nat.zero_mul]; exact Nat.zero_le _)

/-- A product is the primitive's NaN or a number with the product's sign. -/
theorem fmul_cases (a b : Word) :
    fmul k a b = drawNaN k ∨ ∃ mag, mag ≤ 0x7F800000 ∧ fmul k a b = packSign (signOf a != signOf b) mag := by
  unfold fmul
  simp only []
  split_ifs
  · exact .inl rfl
  · exact .inl rfl
  · exact .inr ⟨_, Nat.le_refl _, rfl⟩
  · exact .inr ⟨_, roundMag_le _ _, rfl⟩

/-! ### Division -/

theorem fdiv_inf_inf (ha : isInf a = true) (hb : isInf b = true) : fdiv k a b = drawNaN k := by
  simp [fdiv, isNaN_of_isInf ha, isNaN_of_isInf hb, ha, hb]

theorem fdiv_inf_finite (ha : isInf a = true) (hb : isFinite b = true) :
    fdiv k a b = infOf (signOf a != signOf b) := by
  simp [fdiv, isNaN_of_isInf ha, isNaN_of_isFinite hb, ha, isInf_of_isFinite hb]

theorem fdiv_finite_inf (ha : isFinite a = true) (hb : isInf b = true) :
    fdiv k a b = zeroOf (signOf a != signOf b) := by
  simp [fdiv, isNaN_of_isFinite ha, isNaN_of_isInf hb, isInf_of_isFinite ha, hb]

theorem fdiv_zero_zero (ha : isZero a = true) (hb : isZero b = true) : fdiv k a b = drawNaN k := by
  have fa := isFinite_of_isZero ha
  have fb := isFinite_of_isZero hb
  simp [fdiv, isNaN_of_isFinite fa, isNaN_of_isFinite fb, isInf_of_isFinite fa, isInf_of_isFinite fb, ha, hb]

/-- A number that is no zero over a zero is the infinity of the quotient's sign (00_scope.md R11). -/
theorem fdiv_by_zero (ha : isNaN a = false) (hz : isZero a = false) (hb : isZero b = true) :
    fdiv k a b = infOf (signOf a != signOf b) := by
  have fb := isFinite_of_isZero hb
  cases hinf : isInf a with
  | true => exact fdiv_inf_finite k hinf fb
  | false => simp [fdiv, ha, isNaN_of_isFinite fb, hinf, isInf_of_isFinite fb, hz, hb]

/-- The quotient of finite numbers is the exact quotient rounded once. -/
theorem fdiv_rounds (ha : isFinite a = true) (hb : isFinite b = true) (hz : isZero b = false) :
    fdiv k a b = packSign (signOf a != signOf b) (roundMag (unitsOf a * 2 ^ 149) (unitsOf b)) := by
  simp [fdiv, isNaN_of_isFinite ha, isNaN_of_isFinite hb, isInf_of_isFinite ha, isInf_of_isFinite hb, hz]

theorem unitsOf_pos (hz : isZero a = false) : 0 < unitsOf a := by
  rw [Nat.pos_iff_ne_zero, ne_eq, ← isZero_iff_unitsOf, hz]
  decide

theorem fdiv_overflow (ha : isFinite a = true) (hb : isFinite b = true) (hz : isZero b = false)
    (h : (2 ^ 25 - 1) * 2 ^ 252 * unitsOf b ≤ unitsOf a * 2 ^ 149) :
    fdiv k a b = infOf (signOf a != signOf b) := by
  rw [fdiv_rounds k ha hb hz, roundMag_overflow (unitsOf_pos hz) h]
  rfl

/-- A quotient of at most half a unit is the zero of its sign. -/
theorem fdiv_underflow (ha : isFinite a = true) (hb : isFinite b = true) (hz : isZero b = false)
    (h : 2 * (unitsOf a * 2 ^ 149) ≤ unitsOf b) : fdiv k a b = zeroOf (signOf a != signOf b) := by
  rw [fdiv_rounds k ha hb hz, roundMag_eq_zero (unitsOf_pos hz) h]
  rfl

theorem fdiv_zero_nonzero (ha : isZero a = true) (hb : isNaN b = false) (hz : isZero b = false) :
    fdiv k a b = zeroOf (signOf a != signOf b) := by
  have fa := isFinite_of_isZero ha
  cases hinf : isInf b with
  | true => exact fdiv_finite_inf k fa hinf
  | false =>
    refine fdiv_underflow k fa (by rw [isFinite_eq, hb, hinf]; rfl) hz ?_
    rw [(isZero_iff_unitsOf a).1 ha, Nat.zero_mul]
    exact Nat.zero_le _

/-- A quotient is the primitive's NaN or a number with the quotient's sign. -/
theorem fdiv_cases (a b : Word) :
    fdiv k a b = drawNaN k ∨ ∃ mag, mag ≤ 0x7F800000 ∧ fdiv k a b = packSign (signOf a != signOf b) mag := by
  unfold fdiv
  simp only []
  split_ifs
  · exact .inl rfl
  · exact .inl rfl
  · exact .inr ⟨_, Nat.le_refl _, rfl⟩
  · exact .inr ⟨_, Nat.zero_le _, rfl⟩
  · exact .inl rfl
  · exact .inr ⟨_, Nat.le_refl _, rfl⟩
  · exact .inr ⟨_, roundMag_le _ _, rfl⟩

/-- A sum is the primitive's NaN or no NaN at all. -/
theorem fadd_cases (a b : Word) : fadd k a b = drawNaN k ∨ isNaN (fadd k a b) = false := by
  cases hn : isNaN a || isNaN b with
  | true => exact .inl (by simp [fadd, hn])
  | false =>
    rw [Bool.or_eq_false_iff] at hn
    obtain ⟨na, nb⟩ := hn
    cases ia : isInf a <;> cases ib : isInf b
    · have fa : isFinite a = true := by rw [isFinite_eq, na, ia]; rfl
      have fb : isFinite b = true := by rw [isFinite_eq, nb, ib]; rfl
      obtain ⟨neg, hr, -⟩ := fadd_rounds k fa fb
      exact .inr (hr ▸ isNaN_packSign neg _ (roundMag_le _ _))
    · exact .inr (by rwa [fadd_finite_inf k (by rw [isFinite_eq, na, ia]; rfl) ib])
    · exact .inr (by rwa [fadd_inf_finite k ia (by rw [isFinite_eq, nb, ib]; rfl)])
    · rw [fadd_inf_inf k ia ib]
      split
      · exact .inl rfl
      · exact .inr na

end

end Sys2Proof.Proofs
end

section
/-! SUPPORT. What one rounding to nearest, ties to even, says of a packed result, and the statements about the binary32
primitives (00_scope.md R10 to R12). -/
namespace Sys2Proof.Proofs
open Sys2Proof Sys2Proof.Machine

/-! ### Rounded results -/

/-- No number, counted in units of `1 / scale`, is nearer to `exact` than `r` is, and where another one is as near the
significand of `r` is even (00_scope.md R10). -/
def IsNearestEven (r : Word) (exact scale : Int) : Prop :=
  ∀ c : Word,
    (valueOf r * scale - exact).natAbs ≤ (valueOf c * scale - exact).natAbs ∧
    ((valueOf r * scale - exact).natAbs = (valueOf c * scale - exact).natAbs → valueOf c ≠ valueOf r →
      fracOf r % 2 = 0)

/-- Distances do not see a change of both signs, as of a quotient's operands. -/
theorem IsNearestEven.neg {r : Word} {exact scale : Int} (h : IsNearestEven r exact scale) :
    IsNearestEven r (-exact) (-scale) := by
  have distance : ∀ c : Word, (valueOf c * -scale - -exact).natAbs = (valueOf c * scale - exact).natAbs := fun c => by
    rw [← Int.natAbs_neg]
    congr 1
    ring
  intro c
  rw [distance, distance]
  exact h c

/-- The distance of two numbers of one sign is that of their magnitudes. -/
theorem natAbs_signed_sub_same (neg : Bool) (m n : Nat) :
    (signed neg m - signed neg n).natAbs = ((m : Int) - n).natAbs := by
  cases neg <;> simp only [signed, if_true, Bool.false_eq_true, if_false]
  omega

/-- The distance of two numbers of opposite signs is the sum of their magnitudes. -/
theorem natAbs_signed_sub_opposite {p q : Bool} (h : p ≠ q) (m n : Nat) :
    (signed p m - signed q n).natAbs = m + n := by
  cases p <;> cases q
  case false.false | true.true => exact absurd rfl h
  all_goals
    simp only [signed, if_true, Bool.false_eq_true, if_false]
    omega

theorem valueOf_packSign (neg : Bool) (mag : Nat) (h : mag < 2 ^ 31) :
    valueOf (packSign neg mag) = signed neg (magUnits mag) := by
  rw [valueOf_eq, signOf_packSign, unitsOf_packSign neg mag h]

/-- A magnitude rounded and packed with its sign is nearest to the signed number among all numbers, and even in a tie.
A number of the other sign is no nearer than the zero, whose magnitude `roundMag_nearest` compares with. -/
theorem isNearestEven_packSign (neg : Bool) {num den : Nat} (hd : 0 < den) (h : roundMag num den < 0x7F800000) :
    IsNearestEven (packSign neg (roundMag num den)) (signed neg num) den := by
  intro c
  rw [valueOf_packSign _ _ (by omega), fracOf_packSign _ _ (by omega), valueOf_eq c, unitsOf_eq c, signed_mul_natCast,
    signed_mul_natCast, natAbs_signed_sub_same]
  have parity : roundMag num den % 2 ^ 23 % 2 = roundMag num den % 2 := by omega
  rw [parity]
  obtain ⟨near, even⟩ := roundMag_nearest num den (c.toNat % 2 ^ 31) hd (by omega)
  by_cases hs : signOf c = neg
  · rw [hs, natAbs_signed_sub_same]
    exact ⟨near, fun tie hne => even tie fun heq => hne (heq ▸ rfl)⟩
  · obtain ⟨nearZero, evenZero⟩ := roundMag_nearest num den 0 hd (by omega)
    rw [magUnits_zero, Nat.zero_mul] at nearZero evenZero
    rw [natAbs_signed_sub_opposite hs]
    refine ⟨by omega, fun tie hne => ?_⟩
    have hc : magUnits (c.toNat % 2 ^ 31) * den = 0 := by omega
    have hc0 : magUnits (c.toNat % 2 ^ 31) = 0 := (Nat.mul_eq_zero.1 hc).resolve_right (by omega)
    rw [hc0, signed_zero] at hne
    refine evenZero (by omega) fun heq => hne ?_
    rw [← heq, signed_zero]

/-- The sum of finite numbers below the overflow bound is finite, nearest, and even in a tie. -/
theorem fadd_nearest (k : Nat) {a b : Word} (ha : isFinite a = true) (hb : isFinite b = true)
    (h : (valueOf a + valueOf b).natAbs < (2 ^ 25 - 1) * 2 ^ 252) :
    isFinite (fadd k a b) = true ∧ IsNearestEven (fadd k a b) (valueOf a + valueOf b) 1 := by
  obtain ⟨neg, hr, hz⟩ := fadd_rounds k ha hb
  have small := roundMag_finite (valueOf a + valueOf b).natAbs 1 (by rwa [Nat.mul_one])
  have near := isNearestEven_packSign neg Nat.one_pos small
  rw [← hr, ← hz] at near
  exact ⟨hr ▸ isFinite_packSign neg _ small, near⟩

/-! ### The statements -/

/-- Settles O54: `roundMag_nearest` at the exact sum, whose denominator is 1. -/
theorem faddRoundsToNearestEven : Obligations.FaddRoundsToNearestEven := by
  intro k a b c ha hb _ top exact hlt
  obtain ⟨finite, near⟩ := fadd_nearest k ha hb hlt
  have nearC := near c
  simp only [Int.mul_one] at nearC
  exact ⟨finite, nearC⟩

/-- Settles O60: a difference is the sum with the exact negation. -/
theorem fsubRoundsToNearestEven : Obligations.FsubRoundsToNearestEven := by
  intro k a b c ha hb hc top exact hlt
  have sum := faddRoundsToNearestEven k a (fneg b) c ha (by simpa using hb) hc
  simp only [valueOf_fneg, ← sub_eq_add_neg] at sum
  exact sum hlt

/-- Settles O55: `roundMag_nearest` at the product in units of 2^-298. -/
theorem fmulRoundsToNearestEven : Obligations.FmulRoundsToNearestEven := by
  intro k a b c ha hb _ top hlt exact
  have small := roundMag_finite (unitsOf a * unitsOf b) (2 ^ 149) hlt
  have near := isNearestEven_packSign (signOf a != signOf b) (Nat.two_pow_pos 149) small
  rw [← fmul_rounds k ha hb, ← signed_mul_signed, ← valueOf_eq, ← valueOf_eq] at near
  have finite := isFinite_packSign (signOf a != signOf b) _ small
  rw [← fmul_rounds k ha hb] at finite
  exact ⟨finite, near c⟩

/-- Settles O56: `roundMag_nearest` at the quotient, whose denominator is the divisor's magnitude; a negative divisor
changes the sign of every distance's two parts. -/
theorem fdivRoundsToNearestEven : Obligations.FdivRoundsToNearestEven := by
  intro k a b c ha hb _ hz top hlt exact
  have small := roundMag_finite (unitsOf a * 2 ^ 149) (unitsOf b) hlt
  have finite := isFinite_packSign (signOf a != signOf b) _ small
  have near := isNearestEven_packSign (signOf a != signOf b) (unitsOf_pos hz) small
  rw [← fdiv_rounds k ha hb hz] at finite near
  have dividend : exact = signed (signOf a) (unitsOf a * 2 ^ 149) := signed_mul_natCast (signOf a) (unitsOf a) (2 ^ 149)
  have nearest : IsNearestEven (fdiv k a b) exact (valueOf b) := by
    rw [dividend, valueOf_eq b]
    cases hs : signOf b with
    | false => simpa [hs, signed] using near
    | true => cases ha : signOf a <;> simpa [hs, ha, signed] using near.neg
  exact ⟨finite, nearest c⟩

/-- Settles O58: a primitive's result is its drawn NaN or no NaN. -/
theorem naNResultsAreQuiet : Obligations.NaNResultsAreQuiet := by
  intro k a b r hr hn
  have drawn : r = drawNaN k := by
    rcases hr with rfl | rfl | rfl | rfl
    · exact (fadd_cases k a b).resolve_right (by simp [hn])
    · exact (fadd_cases k a (fneg b)).resolve_right (by simp [← fsub_eq_fadd, hn])
    · refine (fmul_cases k a b).resolve_right fun ⟨mag, hmag, heq⟩ => ?_
      rw [heq, isNaN_packSign _ _ hmag] at hn
      exact absurd hn (by decide)
    · refine (fdiv_cases k a b).resolve_right fun ⟨mag, hmag, heq⟩ => ?_
      rw [heq, isNaN_packSign _ _ hmag] at hn
      exact absurd hn (by decide)
  rw [drawn]
  exact drawNaN_quiet k

/-- Settles O59: bit by bit for `fneg`; the comparisons are of the values where neither operand is a NaN. -/
theorem negationAndComparisonAreExact : Obligations.NegationAndComparisonAreExact := by
  intro a b
  have low : ∀ j < 31, (0x80000000#32).getLsbD j = false := by decide
  refine ⟨signOf_fneg a, fun j hj => ?_, ?_, fun ha hb => ?_⟩
  · rw [fneg, BitVec.getLsbD_xor, low j hj, Bool.xor_false]
  · rintro (h | h) <;> simp [fgt, flt, h]
  · simp [fgt, flt, ha, hb]

/-! ### Special values -/

section
variable {a b : Word} (k : Nat)

/-- A primitive with a NaN operand gives a NaN (00_scope.md R11). -/
theorem isNaN_of_nan_operand (h : isNaN a = true ∨ isNaN b = true) :
    isNaN (fadd k a b) = true ∧ isNaN (fsub k a b) = true ∧ isNaN (fmul k a b) = true ∧ isNaN (fdiv k a b) = true := by
  rcases h with h | h
  · rw [fsub_eq_fadd, fadd_nan_left k a b h, fadd_nan_left k a (fneg b) h, fmul_nan_left k a b h, fdiv_nan_left k a b h]
    simp
  · rw [fsub_eq_fadd, fadd_nan_right k a b h, fadd_nan_right k a (fneg b) (by simpa using h), fmul_nan_right k a b h,
      fdiv_nan_right k a b h]
    simp

theorem fsub_inf_inf (ha : isInf a = true) (hb : isInf b = true) :
    fsub k a b = if signOf a != signOf b then a else drawNaN k := by
  rw [fsub_eq_fadd, fadd_inf_inf k ha (by simpa using hb), signOf_fneg]
  cases signOf a <;> cases signOf b <;> rfl

theorem fsub_overflow (ha : isFinite a = true) (hb : isFinite b = true)
    (h : (2 ^ 25 - 1) * 2 ^ 252 ≤ (valueOf a - valueOf b).natAbs) :
    fsub k a b = infOf (decide (valueOf a - valueOf b < 0)) := by
  have sum := fadd_overflow k ha (b := fneg b) (by simpa using hb)
  rw [valueOf_fneg, ← sub_eq_add_neg] at sum
  exact sum h

/-- Both zeros have the value 0. -/
theorem valueOf_of_isZero (h : isZero a = true) : valueOf a = 0 := by
  rw [valueOf_eq, (isZero_iff_unitsOf a).1 h, signed_zero]

theorem fadd_zero_zero (ha : isZero a = true) (hb : isZero b = true) :
    fadd k a b = zeroOf (signOf a && signOf b) :=
  fadd_exact_zero k (isFinite_of_isZero ha) (isFinite_of_isZero hb)
    (by rw [valueOf_of_isZero ha, valueOf_of_isZero hb, Int.add_zero])

theorem fsub_zero_zero (ha : isZero a = true) (hb : isZero b = true) :
    fsub k a b = zeroOf (signOf a && !signOf b) := by
  rw [fsub_eq_fadd, fadd_zero_zero k ha (by simpa using hb), signOf_fneg]

/-- A finite number minus itself is +0 (00_scope.md R11). -/
theorem fsub_self (ha : isFinite a = true) : fsub k a a = 0#32 := by
  rw [fsub_eq_fadd, fadd_exact_zero k ha (by simpa using ha) (by rw [valueOf_fneg, Int.add_right_neg]), signOf_fneg,
    Bool.and_not_self]
  rfl

theorem difference_eq_zero_of_isZero_fsub (ha : isFinite a = true) (hb : isFinite b = true)
    (h : isZero (fsub k a b) = true) : valueOf a - valueOf b = 0 := by
  have sum := sum_eq_zero_of_isZero_fadd k ha (by simpa using hb) h
  rwa [valueOf_fneg, ← sub_eq_add_neg] at sum

theorem isZero_zeroOf (neg : Bool) : isZero (zeroOf neg) = true := by cases neg <;> rfl

theorem signOf_zeroOf (neg : Bool) : signOf (zeroOf neg) = neg := by cases neg <;> rfl

/-- A result that is the zero of a sign is a zero and has the sign. -/
theorem zero_of_eq_zeroOf {r : Word} {neg : Bool} (h : r = zeroOf neg) : isZero r = true ∧ signOf r = neg := by
  rw [h]
  exact ⟨isZero_zeroOf neg, signOf_zeroOf neg⟩

/-- The sign of a product that is a zero, whichever way it became one. -/
theorem signOf_fmul_of_isZero (h : isZero (fmul k a b) = true) : signOf (fmul k a b) = (signOf a != signOf b) := by
  obtain hn | ⟨mag, -, hp⟩ := fmul_cases k a b
  · rw [hn, isZero_drawNaN] at h
    exact absurd h (by decide)
  · rw [hp, signOf_packSign]

/-- The sign of a quotient that is a zero, whichever way it became one. -/
theorem signOf_fdiv_of_isZero (h : isZero (fdiv k a b) = true) : signOf (fdiv k a b) = (signOf a != signOf b) := by
  obtain hn | ⟨mag, -, hp⟩ := fdiv_cases k a b
  · rw [hn, isZero_drawNaN] at h
    exact absurd h (by decide)
  · rw [hp, signOf_packSign]

end

/-- Settles O57: one rule of the primitives for each clause, in the statement's order. -/
theorem specialValuesOfThePrimitives : Obligations.SpecialValuesOfThePrimitives := by
  intro k a b odd top
  refine ⟨?nanOperand, ?infInvalid, ?infInf, ?infFinite, ?mulInf, ?mulZeroInf, ?divZeroZero, ?divByZero, ?addOverflow,
    ?subOverflow, ?mulOverflow, ?divOverflow, ?addOpposite, ?subSelf, ?addZeros, ?sumZero, ?negativeZeros, ?mulSign,
    ?divSign, ?mulZeroLeft, ?mulZeroRight, ?mulUnderflow, ?divZeroLeft, ?divInf, ?divUnderflow⟩
  case nanOperand => exact isNaN_of_nan_operand k
  case infInvalid =>
    intro ha hb
    refine ⟨fun ho => ?_, fun ho => ?_, ?_⟩
    · rw [fadd_inf_inf k ha hb, if_pos ho, isNaN_drawNaN]
    · rw [fsub_inf_inf k ha hb, if_neg (ne_true_of_eq_false ho), isNaN_drawNaN]
    · rw [fdiv_inf_inf k ha hb, isNaN_drawNaN]
  case infInf =>
    intro ha hb
    refine ⟨fun ho => ?_, fun ho => ?_⟩
    · rw [fadd_inf_inf k ha hb, if_neg (ne_true_of_eq_false ho)]
    · rw [fsub_inf_inf k ha hb, if_pos ho]
  case infFinite =>
    intro ha hb
    exact ⟨fadd_inf_finite k ha hb, fadd_finite_inf k hb ha, fadd_inf_finite k ha (by simpa using hb),
      fadd_finite_inf k hb (by simpa using ha), (fdiv_inf_finite k ha hb).trans (infOf_eq _)⟩
  case mulInf =>
    intro ha hb hz
    have product := (fmul_inf k ha hb hz).trans (infOf_eq _)
    exact ⟨product, (fmul_comm k b a).trans product⟩
  case mulZeroInf =>
    intro ha hb
    rw [fmul_comm k b a, fmul_zero_inf k ha hb, isNaN_drawNaN]
    exact ⟨rfl, rfl⟩
  case divZeroZero =>
    intro ha hb
    rw [fdiv_zero_zero k ha hb, isNaN_drawNaN]
  case divByZero => exact fun hz hn hb => (fdiv_by_zero k hn hz hb).trans (infOf_eq _)
  case addOverflow =>
    intro ha hb h
    simpa only [infOf_eq, decide_eq_true_eq] using fadd_overflow k ha hb h
  case subOverflow =>
    intro ha hb h
    simpa only [infOf_eq, decide_eq_true_eq] using fsub_overflow k ha hb h
  case mulOverflow => exact fun ha hb h => (fmul_overflow k ha hb h).trans (infOf_eq _)
  case divOverflow => exact fun ha hb hz h => (fdiv_overflow k ha hb hz h).trans (infOf_eq _)
  case addOpposite =>
    intro ha hb ho h
    have opposite : ∀ p q : Bool, (p != q) = true → (p && q) = false := by decide
    rw [fadd_exact_zero k ha hb h, opposite _ _ ho]
    rfl
  case subSelf => exact fsub_self k
  case addZeros =>
    exact fun ha hb => ⟨(fadd_zero_zero k ha hb).trans (zeroOf_eq _), (fsub_zero_zero k ha hb).trans (zeroOf_eq _)⟩
  case sumZero =>
    exact fun ha hb => ⟨sum_eq_zero_of_isZero_fadd k ha hb, difference_eq_zero_of_isZero_fsub k ha hb⟩
  case negativeZeros => exact ⟨fadd_zero_zero k (by decide) (by decide), fsub_zero_zero k (by decide) (by decide)⟩
  case mulSign => exact signOf_fmul_of_isZero k
  case divSign => exact signOf_fdiv_of_isZero k
  case mulZeroLeft => exact fun ha hb => zero_of_eq_zeroOf (fmul_zero k ha hb)
  case mulZeroRight =>
    intro ha hb
    have product := zero_of_eq_zeroOf (fmul_zero k hb ha)
    rwa [fmul_comm k b a, bne_comm] at product
  case mulUnderflow => exact fun ha hb h => zero_of_eq_zeroOf (fmul_underflow k ha hb h)
  case divZeroLeft => exact fun ha hn hz => zero_of_eq_zeroOf (fdiv_zero_nonzero k ha hn hz)
  case divInf => exact fun ha hb => zero_of_eq_zeroOf (fdiv_finite_inf k ha hb)
  case divUnderflow => exact fun ha hb hz h => zero_of_eq_zeroOf (fdiv_underflow k ha hb hz h)

end Sys2Proof.Proofs
end

section
/-! SUPPORT. What a command can do, said once (`effect_of_exec`): it raises IllegalCommand, or answers, or answers and
replaces STATUS or, among the instances, the one that it names; and there it keeps the registers that its opcode may not
change (10_state.md R23, R24). -/
namespace Sys2Proof.Proofs
open Sys2Proof Sys2Proof.Machine

/-! ### Lists -/

section
variable {α β : Type} {l m : List α} {i : Nat} {a b d e : α}

theorem getD_congr (h : l[i]? = m[i]?) (hd : d = e) : l.getD i d = m.getD i e := by
  rw [List.getD_eq_getElem?_getD, List.getD_eq_getElem?_getD, h, hd]

theorem getElem?_set_congr (h : l[i]? = m[i]?) (hab : a = b) : (l.set i a)[i]? = (m.set i b)[i]? := by
  rw [hab, List.getElem?_set_self', List.getElem?_set_self', h]

/-- Replacing an element by one with the same image leaves the images as they are. -/
theorem map_set_getD {f : α → β} (h : f a = f (l.getD i d)) : (l.set i a).map f = l.map f := by
  rw [List.map_set, h]
  by_cases hi : i < l.length
  · rw [List.getD_eq_getElem l d hi, ← List.getElem_map f (h := by simpa using hi), List.set_getElem_self]
  · exact List.set_eq_of_length_le (by simpa using hi)

theorem getElem?_map_set_getD {f : α → β} (h : f a = f (l.getD i d)) (n : Nat) :
    (l.set i a)[n]?.map f = l[n]?.map f := by
  rw [← List.getElem?_map, map_set_getD h, List.getElem?_map]

theorem flatMap_set_getD {f : α → List β} (h : f a = f (l.getD i d)) : (l.set i a).flatMap f = l.flatMap f := by
  rw [List.flatMap_def, map_set_getD h, ← List.flatMap_def]

end

/-! ### The fields of a command that statements speak of -/

/-- The family of a command and the number among that family's instances that it names (30_encoding.md R61, R64). -/
def namedInst : Instr → Nat × Byte
  | .sysNop inst _ | .sysStatR inst _ | .sysStatC inst _ | .sysParamR inst _ => (0, inst)
  | .dbInit inst _ | .dbRreg inst _ | .dbRead inst _ | .dbWrite inst _ _ _ => (1, inst)
  | .biqInit inst _ | .biqWreg inst _ _ | .biqRreg inst _ | .biqSample inst _ _ => (2, inst)
  | .cf1Init inst _ | .cf1Wreg inst _ _ | .cf1Rreg inst _ | .cf1SampleAcc inst _ _ | .cf1SampleGyr inst _ _ => (3, inst)
  | .cf2Init inst _ | .cf2Wreg inst _ _ | .cf2Rreg inst _ | .cf2SampleAcc inst _ _ | .cf2SampleGyr inst _ _ => (4, inst)
  | .piddInit inst _ | .piddWreg inst _ _ | .piddRreg inst _ | .piddCalc inst _ _ => (5, inst)
  | .pidtInit inst _ | .pidtWreg inst _ _ | .pidtRreg inst _ | .pidtCalc inst _ _ _ => (6, inst)

theorem instrFamily_eq (i : Instr) : instrFamily i = (namedInst i).1 := by
  cases i <;> exact congrArg BitVec.toNat (Laws.famOf_cmdWord ..)

theorem instrTarget_eq (i : Instr) : instrTarget i = (namedInst i).2.toNat := by
  cases i <;> exact congrArg BitVec.toNat (Laws.instOf_cmdWord ..)

/-- The commands whose OP is 1: the five WREGs, and SYS.STAT_R (30_encoding.md R65). -/
def hasOpOne : Instr → Bool
  | .sysStatR _ _ | .biqWreg _ _ _ | .cf1Wreg _ _ _ | .cf2Wreg _ _ _ | .piddWreg _ _ _ | .pidtWreg _ _ _ => true
  | _ => false

theorem hasOpOne_iff (i : Instr) : hasOpOne i = true ↔ opOf (encode i).cmd = 1#4 := by
  cases i <;> simp [hasOpOne, encode, Laws.opOf_cmdWord]

/-! ### Register views -/

/-- A choice of registers of each family that has a WREG. -/
structure View where
  biq : BiqInst → List Word
  cf1 : Cf1Inst → List Word
  cf2 : Cf2Inst → List Word
  pidd : PiddInst → List Word
  pidt : PidtInst → List Word

/-- The registers that a view chooses of `F[n]`, where `F` is the family `fam`. -/
def View.of (v : View) (fam n : Nat) (s : State) : Option (List Word) :=
  match fam with
  | 2 => s.biq[n]?.map v.biq
  | 3 => s.cf1[n]?.map v.cf1
  | 4 => s.cf2[n]?.map v.cf2
  | 5 => s.pidd[n]?.map v.pidd
  | 6 => s.pidt[n]?.map v.pidt
  | _ => none

/-- The coefficients of a section (10_state.md R26). -/
def sectionConfig (c : Section) : List Word := [c.b0, c.b1, c.b2, c.a1, c.a2]

/-- The state words of a section (10_state.md R26). -/
def sectionHistory (c : Section) : List Word := [c.s0, c.s1]

/-- The RW registers, which `configOf` lists (`configOf_eq`). -/
def configView : View where
  biq b := b.nsec :: b.gain :: b.secs.flatMap sectionConfig
  cf1 c := [c.tau]
  cf2 c := [c.tau]
  pidd c := [c.kp, c.ki, c.kd]
  pidt c := [c.kp, c.ki, c.kd, c.sat]

/-- The read-only registers, which `historyOf` lists (`historyOf_eq`). -/
def historyView : View where
  biq b := b.secs.flatMap sectionHistory
  cf1 c := [c.xprev, c.yprev]
  cf2 c := [c.x1, c.x2, c.y1, c.y2]
  pidd c := [c.k1, c.k2, c.k3, c.e1, c.e2, c.uprev]
  pidt c := [c.integ, c.eprev]

theorem configOf_eq (fam n : Nat) (s : State) : configOf fam n s = configView.of fam n s := by
  match fam with
  | 0 | 1 | 2 | 3 | 4 | 5 | 6 | _ + 7 => rfl

theorem historyOf_eq (fam n : Nat) (s : State) : historyOf fam n s = historyView.of fam n s := by
  match fam with
  | 0 | 1 | 2 | 3 | 4 | 5 | 6 | _ + 7 => rfl

theorem View.of_congr (v : View) {fam n : Nat} {s t : State} (h : sameInst fam n s t) :
    v.of fam n s = v.of fam n t := by
  match fam with
  | 0 | 1 | _ + 7 => rfl
  | 2 | 3 | 4 | 5 | 6 => exact congrArg (Option.map _) h

/-- The registers that a command keeps in all instances, the one that it names included: a WREG the read-only ones, any
other command the RW ones (10_state.md R24; SYS.STAT_R, which shares the OP of the WREGs, keeps both). -/
def keptView (i : Instr) : View := if hasOpOne i then historyView else configView

theorem keptView_of_op_eq {i : Instr} (h : opOf (encode i).cmd = 1#4) : keptView i = historyView :=
  if_pos ((hasOpOne_iff i).2 h)

theorem keptView_of_op_ne {i : Instr} (h : opOf (encode i).cmd ≠ 1#4) : keptView i = configView :=
  if_neg (mt (hasOpOne_iff i).1 h)

/-- The derived coefficients of `PIDD[i]` (10_state.md R35). -/
def piddCoefficients (c : PiddInst) : Word × Word × Word := (c.k1, c.k2, c.k3)

/-! ### What the operations on instances keep -/

theorem sectionHistory_write (c : Section) (v : Word) {j : Nat} {r : SecReg} (h : biqClass (.sec j r) = .rw) :
    sectionHistory (c.write v r) = sectionHistory c := by
  cases r with
  | b0 | b1 | b2 | a1 | a2 => rfl
  | s0 | s1 => cases h

theorem biqHistory_write (b : BiqInst) (v : Word) {reg : BiqReg} (h : biqClass reg = .rw) :
    historyView.biq (b.write v reg) = historyView.biq b := by
  cases reg with
  | nsec | gain => rfl
  | sec j r => exact flatMap_set_getD (sectionHistory_write _ v h)

theorem cf1History_write (c : Cf1Inst) (v : Word) {reg : Cf1Reg} (h : cf1Class reg = .rw) :
    historyView.cf1 (c.write v reg) = historyView.cf1 c := by
  cases reg with
  | tau => rfl
  | xprev | yprev => cases h

theorem cf2History_write (c : Cf2Inst) (v : Word) {reg : Cf2Reg} (h : cf2Class reg = .rw) :
    historyView.cf2 (c.write v reg) = historyView.cf2 c := by
  cases reg with
  | tau => rfl
  | x1 | x2 | y1 | y2 => cases h

theorem piddHistory_write (c : PiddInst) (v : Word) {reg : PiddReg} (h : piddClass reg = .rw) :
    historyView.pidd (c.write v reg) = historyView.pidd c := by
  cases reg with
  | kp | ki | kd => rfl
  | k1 | k2 | k3 | e1 | e2 | uprev => cases h

theorem piddCoefficients_write (c : PiddInst) (v : Word) {reg : PiddReg} (h : piddClass reg = .rw) :
    piddCoefficients (c.write v reg) = piddCoefficients c := by
  cases reg with
  | kp | ki | kd => rfl
  | k1 | k2 | k3 | e1 | e2 | uprev => cases h

theorem pidtHistory_write (c : PidtInst) (v : Word) {reg : PidtReg} (h : pidtClass reg = .rw) :
    historyView.pidt (c.write v reg) = historyView.pidt c := by
  cases reg with
  | kp | ki | kd | sat => rfl
  | integ | eprev => cases h

/-- A WREG that passes every check writes a register of class RW, so it keeps what every such write keeps. -/
theorem wreg_keeps {ρ α β : Type} {s : State} {n : Nat} {inst : Byte} {reg : Option ρ} {cls : ρ → RegClass}
    {more : List (Bool × Cause)} {f : α → β} {c : α} {write : ρ → α}
    (pass : firstFailing (s.wregChecks n inst (reg.map cls) ++ more) = none)
    (keeps : ∀ r, cls r = .rw → f (write r) = f c) : f (reg.elim c write) = f c := by
  cases reg with
  | none => rfl
  | some r =>
    refine keeps r ?_
    rw [firstFailing_wregChecks] at pass
    split_ifs at pass with _ _ _ hrw
    simpa using hrw

/-- BIQ.INIT keeps the coefficients of every section (41_biquad.md R90). -/
theorem config_map_cleared (secs : List Section) :
    (secs.map Section.cleared).flatMap sectionConfig = secs.flatMap sectionConfig := by
  rw [List.flatMap_map]; rfl

/-- A cascade keeps the coefficients of every section (41_biquad.md R93). -/
theorem config_cascade (k : Nat) (v : Word) (n : Nat) (secs : List Section) :
    (cascade k v n secs).1.flatMap sectionConfig = secs.flatMap sectionConfig := by
  induction secs generalizing k v n with
  | nil => cases n <;> rfl
  | cons c rest ih =>
    cases n with
    | zero => rfl
    | succ n => exact congrArg (sectionConfig c ++ ·) (ih ..)

theorem biqConfig_withSecs {b : BiqInst} {secs : List Section}
    (h : secs.flatMap sectionConfig = b.secs.flatMap sectionConfig) :
    configView.biq { b with secs := secs } = configView.biq b :=
  congrArg (b.nsec :: b.gain :: ·) h

/-! ### What a command does -/

/-- What a command can do: raise IllegalCommand, answer, or answer and replace STATUS or the `F[i]` that it names. What
it puts there has the same registers in the command's `keptView`, and the same derived coefficients unless the command
is PIDD.INIT (10_state.md R23, R24, R35; 60_exceptions.md R139, R140). -/
inductive Effect (i : Instr) (s : State) : State → Prop
  | illegal (c : Cause) : Effect i s (s.raiseIllegal c)
  | answer (r : Resp) : Effect i s (s.respond r)
  | status (st : Word) (r : Resp) : Effect i s ({ s with status := st }.respond r)
  | db (inst : Byte) (d : DbInst) (r : Resp) (target : namedInst i = (1, inst)) :
      Effect i s ((s.setDb inst d).respond r)
  | biq (inst : Byte) (b : BiqInst) (k : Nat) (r : Resp) (target : namedInst i = (2, inst))
      (kept : (keptView i).biq b = (keptView i).biq (s.biqAt inst)) : Effect i s (((s.setBiq inst b).drew k).respond r)
  | cf1 (inst : Byte) (c : Cf1Inst) (k : Nat) (r : Resp) (target : namedInst i = (3, inst))
      (kept : (keptView i).cf1 c = (keptView i).cf1 (s.cf1At inst)) : Effect i s (((s.setCf1 inst c).drew k).respond r)
  | cf2 (inst : Byte) (c : Cf2Inst) (k : Nat) (r : Resp) (target : namedInst i = (4, inst))
      (kept : (keptView i).cf2 c = (keptView i).cf2 (s.cf2At inst)) : Effect i s (((s.setCf2 inst c).drew k).respond r)
  | pidd (inst : Byte) (c : PiddInst) (k : Nat) (r : Resp) (target : namedInst i = (5, inst))
      (kept : (keptView i).pidd c = (keptView i).pidd (s.piddAt inst))
      (coefficients : (∀ idx, i ≠ .piddInit inst idx) → piddCoefficients c = piddCoefficients (s.piddAt inst)) :
      Effect i s (((s.setPidd inst c).drew k).respond r)
  | pidt (inst : Byte) (c : PidtInst) (k : Nat) (r : Resp) (target : namedInst i = (6, inst))
      (kept : (keptView i).pidt c = (keptView i).pidt (s.pidtAt inst)) :
      Effect i s (((s.setPidt inst c).drew k).respond r)

theorem effect_of_conclude {i : Instr} {s t u : State} {cs : List (Bool × Cause)} (h : s.conclude cs t = .next u)
    (effect : firstFailing cs = none → Effect i s t) : Effect i s u := by
  obtain ⟨c, -, rfl⟩ | ⟨pass, rfl⟩ := conclude_cases h
  · exact .illegal c
  · exact effect pass

/-- Every command has one of these effects. -/
theorem effect_of_exec {i : Instr} {s t : State} (h : exec i s = .next t) : Effect i s t := by
  cases i with
  | sysNop | sysStatR | sysParamR | dbRreg | biqRreg | cf1Rreg | cf2Rreg | piddRreg | pidtRreg =>
    exact effect_of_conclude h fun _ => .answer _
  | sysStatC => exact effect_of_conclude h fun _ => .status _ _
  | dbInit | dbRead | dbWrite => exact effect_of_conclude h fun _ => .db _ _ _ rfl
  | biqInit => exact effect_of_conclude h fun _ => .biq _ _ 0 _ rfl (biqConfig_withSecs (config_map_cleared _))
  | biqSample => exact effect_of_conclude h fun _ => .biq _ _ _ _ rfl (biqConfig_withSecs (config_cascade ..))
  | biqWreg => exact effect_of_conclude h fun pass => .biq _ _ 0 _ rfl (wreg_keeps pass fun _ => biqHistory_write _ _)
  | cf1Init => exact effect_of_conclude h fun _ => .cf1 _ _ 0 _ rfl rfl
  | cf1SampleAcc | cf1SampleGyr => exact effect_of_conclude h fun _ => .cf1 _ _ _ _ rfl rfl
  | cf1Wreg =>
    exact effect_of_conclude h fun pass => .cf1 _ _ 0 _ rfl (wreg_keeps (more := []) pass fun _ => cf1History_write _ _)
  | cf2Init => exact effect_of_conclude h fun _ => .cf2 _ _ 0 _ rfl rfl
  | cf2SampleAcc | cf2SampleGyr => exact effect_of_conclude h fun _ => .cf2 _ _ _ _ rfl rfl
  | cf2Wreg =>
    exact effect_of_conclude h fun pass => .cf2 _ _ 0 _ rfl (wreg_keeps (more := []) pass fun _ => cf2History_write _ _)
  | piddInit _ idx => exact effect_of_conclude h fun _ => .pidd _ _ _ _ rfl rfl fun other => absurd rfl (other idx)
  | piddCalc => exact effect_of_conclude h fun _ => .pidd _ _ _ _ rfl rfl fun _ => rfl
  | piddWreg =>
    exact effect_of_conclude h fun pass => .pidd _ _ 0 _ rfl
      (wreg_keeps (more := []) pass fun _ => piddHistory_write _ _)
      fun _ => wreg_keeps (more := []) pass fun _ => piddCoefficients_write _ _
  | pidtInit => exact effect_of_conclude h fun _ => .pidt _ _ 0 _ rfl rfl
  | pidtCalc => exact effect_of_conclude h fun _ => .pidt _ _ _ _ rfl rfl
  | pidtWreg =>
    exact effect_of_conclude h fun pass => .pidt _ _ 0 _ rfl
      (wreg_keeps (more := []) pass fun _ => pidtHistory_write _ _)

end Sys2Proof.Proofs
end

section
/-! SUPPORT. The statements about which registers a command changes (10_state.md R23, R24, R35), about every step's next
state (R20, R32) and about the reset states (R37), from `effect_of_exec` and `step_cases`. -/
namespace Sys2Proof.Proofs
open Sys2Proof Sys2Proof.Machine

/-! ### Steps -/

/-- A command leaves the parameters and the waiting events as they are. -/
theorem Effect.frame {i : Instr} {s t : State} (h : Effect i s t) : t.params = s.params ∧ t.inputs = s.inputs := by
  cases h <;> exact ⟨rfl, rfl⟩

/-- Every command gives a next state (60_exceptions.md R137). -/
theorem exec_next (i : Instr) (s : State) : ∃ t, exec i s = .next t := by
  obtain ⟨t, h, -⟩ := exec_inputs i s s.inputs
  exact ⟨t, h⟩

/-- Every step gives a next state. -/
theorem step_next (s : State) : ∃ t, step s = .next t := by
  unfold step
  split
  · exact ⟨_, rfl⟩
  · exact ⟨_, rfl⟩
  · split
    · exact ⟨_, rfl⟩
    · exact exec_next _ _

/-- Settles O11: `step_cases` says what the next state is, and none of its cases changes the parameters or more of the
events than the first. -/
theorem everyStepGoesOn : Obligations.EveryStepGoesOn := by
  intro s
  obtain ⟨t, h⟩ := step_next s
  refine ⟨t, h, ?_⟩
  obtain ⟨hin, rfl⟩ | ⟨rd, wd, rest, hin, rfl⟩ | ⟨p, q, rest, c, hin, -, rfl⟩ | ⟨p, q, rest, i, hin, -, hexec⟩ :=
    step_cases h
  · simp [hin]
  · simp [hin]
  · simp [hin]
  · obtain ⟨params, inputs⟩ := (effect_of_exec hexec).frame
    simp [hin, params, inputs]

/-! ### The reset states -/

/-- A block with legal parameters has the invariant after reset: each family holds as many reset instances as the
parameters say (70_reset_and_hazards.md R156). -/
theorem fits_resetWith {m : Params} (h : m.legal = true) : Fits (State.resetWith m) where
  legal := h
  dbCount := List.length_replicate
  biqCount := List.length_replicate
  cf1Count := List.length_replicate
  cf2Count := List.length_replicate
  piddCount := List.length_replicate
  pidtCount := List.length_replicate
  db d hd := by rw [List.eq_of_mem_replicate hd]; exact dbFits_zero m
  biq b hb := by rw [List.eq_of_mem_replicate hb]; exact biqFits_zero m
  status := show statusWf 0#32 = true by decide

/-- Settles O14: `fits_resetWith`, and the parameters of `State.reset` are legal. -/
theorem resetStatesHaveTheInvariant : Obligations.ResetStatesHaveTheInvariant :=
  ⟨fun _ h => (wf_iff _).2 (fits_resetWith h), (wf_iff _).2 (fits_resetWith (by decide))⟩

/-! ### Other instances -/

/-- Two states hold the same `F[n]` if the lists of that family agree there; every list that is not given is one that
does not change. -/
theorem sameInst_of_lists {fam n : Nat} {s t : State} (notSys : fam ≠ 0)
    (db : fam = 1 → t.db[n]? = s.db[n]? := by exact fun _ => rfl)
    (biq : fam = 2 → t.biq[n]? = s.biq[n]? := by exact fun _ => rfl)
    (cf1 : fam = 3 → t.cf1[n]? = s.cf1[n]? := by exact fun _ => rfl)
    (cf2 : fam = 4 → t.cf2[n]? = s.cf2[n]? := by exact fun _ => rfl)
    (pidd : fam = 5 → t.pidd[n]? = s.pidd[n]? := by exact fun _ => rfl)
    (pidt : fam = 6 → t.pidt[n]? = s.pidt[n]? := by exact fun _ => rfl) : sameInst fam n t s := by
  match fam with
  | 0 => exact absurd rfl notSys
  | 1 => exact db rfl
  | 2 => exact biq rfl
  | 3 => exact cf1 rfl
  | 4 => exact cf2 rfl
  | 5 => exact pidd rfl
  | 6 => exact pidt rfl
  | _ + 7 => trivial

/-- Replacing number `inst` of family `k` leaves the others of that family. -/
theorem getElem?_set_other {α : Type} {l : List α} {a : α} {fam k n : Nat} {inst : Byte}
    (other : fam ≠ k ∨ n ≠ inst.toNat) (hfam : fam = k) : (l.set inst.toNat a)[n]? = l[n]? :=
  List.getElem?_set_ne (other.resolve_left (not_not_intro hfam)).symm

/-- A command leaves all instances but the one that it names (10_state.md R23). -/
theorem Effect.sameInst_other {i : Instr} {s t : State} {fam n : Nat} (h : Effect i s t) (notSys : fam ≠ 0)
    (other : fam ≠ (namedInst i).1 ∨ n ≠ (namedInst i).2.toNat) : sameInst fam n t s := by
  cases h with
  | illegal | answer | status => exact sameInst_of_lists notSys
  | db _ _ _ target => rw [target] at other; exact sameInst_of_lists notSys (db := getElem?_set_other other)
  | biq _ _ _ _ target => rw [target] at other; exact sameInst_of_lists notSys (biq := getElem?_set_other other)
  | cf1 _ _ _ _ target => rw [target] at other; exact sameInst_of_lists notSys (cf1 := getElem?_set_other other)
  | cf2 _ _ _ _ target => rw [target] at other; exact sameInst_of_lists notSys (cf2 := getElem?_set_other other)
  | pidd _ _ _ _ target => rw [target] at other; exact sameInst_of_lists notSys (pidd := getElem?_set_other other)
  | pidt _ _ _ _ target => rw [target] at other; exact sameInst_of_lists notSys (pidt := getElem?_set_other other)

/-- Settles O16: each effect of a command replaces none of the instances but the named one. -/
theorem otherInstancesAreUnchanged : Obligations.OtherInstancesAreUnchanged := by
  intro i s t fam n h notSys other
  rw [instrFamily_eq, instrTarget_eq] at other
  exact (effect_of_exec h).sameInst_other notSys other

/-! ### Registers by their class -/

/-- A view has the same registers in two states if it has in every family; every family that is not given is one that
does not change. -/
theorem View.of_eq {v : View} {s t : State} {n : Nat} (fam : Nat)
    (biq : t.biq[n]?.map v.biq = s.biq[n]?.map v.biq := by rfl)
    (cf1 : t.cf1[n]?.map v.cf1 = s.cf1[n]?.map v.cf1 := by rfl)
    (cf2 : t.cf2[n]?.map v.cf2 = s.cf2[n]?.map v.cf2 := by rfl)
    (pidd : t.pidd[n]?.map v.pidd = s.pidd[n]?.map v.pidd := by rfl)
    (pidt : t.pidt[n]?.map v.pidt = s.pidt[n]?.map v.pidt := by rfl) : v.of fam n t = v.of fam n s := by
  match fam with
  | 0 | 1 | _ + 7 => rfl
  | 2 => exact biq
  | 3 => exact cf1
  | 4 => exact cf2
  | 5 => exact pidd
  | 6 => exact pidt

/-- A command keeps the registers of its `keptView` in all instances. -/
theorem Effect.keeps {i : Instr} {s t : State} (h : Effect i s t) (fam n : Nat) :
    (keptView i).of fam n t = (keptView i).of fam n s := by
  cases h with
  | illegal | answer | status | db => exact View.of_eq fam
  | biq _ _ _ _ _ kept => exact View.of_eq fam (biq := getElem?_map_set_getD kept n)
  | cf1 _ _ _ _ _ kept => exact View.of_eq fam (cf1 := getElem?_map_set_getD kept n)
  | cf2 _ _ _ _ _ kept => exact View.of_eq fam (cf2 := getElem?_map_set_getD kept n)
  | pidd _ _ _ _ _ kept => exact View.of_eq fam (pidd := getElem?_map_set_getD kept n)
  | pidt _ _ _ _ _ kept => exact View.of_eq fam (pidt := getElem?_map_set_getD kept n)

/-- A command leaves the registers of all instances but the one that it names. -/
theorem Effect.view_other {i : Instr} {s t : State} {fam n : Nat} (h : Effect i s t) (v : View)
    (other : fam ≠ (namedInst i).1 ∨ n ≠ (namedInst i).2.toNat) : v.of fam n t = v.of fam n s := by
  by_cases sys : fam = 0
  · subst sys; rfl
  · exact v.of_congr (h.sameInst_other sys other)

/-- Settles O18: a command's `keptView` is the RW registers, or the read-only ones where its opcode is 1, and the
registers of the instances that it does not name stay in any case. -/
theorem registersChangeByTheirClass : Obligations.RegistersChangeByTheirClass := by
  intro i s t fam n h
  have effect := effect_of_exec h
  rw [instrFamily_eq, instrTarget_eq, ← or_assoc, configOf_eq, configOf_eq, historyOf_eq, historyOf_eq]
  refine ⟨?_, fun hop => keptView_of_op_eq hop ▸ effect.keeps fam n⟩
  rintro (other | hop)
  · exact effect.view_other configView other
  · exact keptView_of_op_ne hop ▸ effect.keeps fam n

/-- Settles O19: of the effects only the replacement of a `PIDD[i]` could touch K1, K2 and K3, and that keeps them there
unless the command is PIDD.INIT of that one. -/
theorem piddCoefficientsChangeByInitOnly : Obligations.PiddCoefficientsChangeByInitOnly := by
  intro i s t n h notInit
  show t.pidd[n.toNat]?.map piddCoefficients = s.pidd[n.toNat]?.map piddCoefficients
  cases effect_of_exec h with
  | illegal | answer | status | db | biq | cf1 | cf2 | pidt => rfl
  | pidd inst c k r target kept coefficients =>
    by_cases hn : n = inst
    · subst hn
      exact getElem?_map_set_getD (coefficients notInit) _
    · exact congrArg (Option.map _) (List.getElem?_set_ne fun heq => hn (BitVec.eq_of_toNat_eq heq.symm))

end Sys2Proof.Proofs
end

section
/-! SUPPORT. Two runs of one command: states that agree on the parameters, the port, the free values and the `F[i]` that
the command names give it the same result (10_state.md R23). One lemma per state update says that the two states agree
after it. -/
namespace Sys2Proof.Proofs
open Sys2Proof Sys2Proof.Machine

/-! ### Agreement and equal results -/

/-- Two states agree on all that a command of a family that names `F[n]` may read. -/
structure Agree (fam n : Nat) (s₁ s₂ : State) : Prop where
  params : s₁.params = s₂.params
  port : s₁.port = s₂.port
  draws : s₁.draws = s₂.draws
  inst : sameInst fam n s₁ s₂

/-- Two states hold the same `F[n]` and have the same response on the port `p`. -/
def SameResult (fam n : Nat) (p : Port) (t₁ t₂ : State) : Prop :=
  sameInst fam n t₁ t₂ ∧ t₁.respOf p = t₂.respOf p

theorem respOf_respond (s : State) (r : Resp) : (s.respond r).respOf s.port = r := by
  unfold State.respOf
  cases h : s.port with
  | r => rw [State.respond_rResp, if_pos h]
  | w => rw [State.respond_wResp, if_pos h]

section
variable {fam n : Nat} {inst : Byte} {s₁ s₂ : State}

theorem Agree.dbAt (inst : Byte) (h : Agree 1 inst.toNat s₁ s₂) : s₁.dbAt inst = s₂.dbAt inst :=
  getD_congr h.inst (by rw [h.params])

theorem Agree.biqAt (inst : Byte) (h : Agree 2 inst.toNat s₁ s₂) : s₁.biqAt inst = s₂.biqAt inst :=
  getD_congr h.inst (by rw [h.params])

theorem Agree.cf1At (inst : Byte) (h : Agree 3 inst.toNat s₁ s₂) : s₁.cf1At inst = s₂.cf1At inst :=
  getD_congr h.inst rfl

theorem Agree.cf2At (inst : Byte) (h : Agree 4 inst.toNat s₁ s₂) : s₁.cf2At inst = s₂.cf2At inst :=
  getD_congr h.inst rfl

theorem Agree.piddAt (inst : Byte) (h : Agree 5 inst.toNat s₁ s₂) : s₁.piddAt inst = s₂.piddAt inst :=
  getD_congr h.inst rfl

theorem Agree.pidtAt (inst : Byte) (h : Agree 6 inst.toNat s₁ s₂) : s₁.pidtAt inst = s₂.pidtAt inst :=
  getD_congr h.inst rfl

theorem Agree.setDb (h : Agree 1 inst.toNat s₁ s₂) {d₁ d₂ : DbInst} (hd : d₁ = d₂) :
    Agree 1 inst.toNat (s₁.setDb inst d₁) (s₂.setDb inst d₂) :=
  { h with inst := getElem?_set_congr h.inst hd }

theorem Agree.setBiq (h : Agree 2 inst.toNat s₁ s₂) {b₁ b₂ : BiqInst} (hb : b₁ = b₂) :
    Agree 2 inst.toNat (s₁.setBiq inst b₁) (s₂.setBiq inst b₂) :=
  { h with inst := getElem?_set_congr h.inst hb }

theorem Agree.setCf1 (h : Agree 3 inst.toNat s₁ s₂) {c₁ c₂ : Cf1Inst} (hc : c₁ = c₂) :
    Agree 3 inst.toNat (s₁.setCf1 inst c₁) (s₂.setCf1 inst c₂) :=
  { h with inst := getElem?_set_congr h.inst hc }

theorem Agree.setCf2 (h : Agree 4 inst.toNat s₁ s₂) {c₁ c₂ : Cf2Inst} (hc : c₁ = c₂) :
    Agree 4 inst.toNat (s₁.setCf2 inst c₁) (s₂.setCf2 inst c₂) :=
  { h with inst := getElem?_set_congr h.inst hc }

theorem Agree.setPidd (h : Agree 5 inst.toNat s₁ s₂) {c₁ c₂ : PiddInst} (hc : c₁ = c₂) :
    Agree 5 inst.toNat (s₁.setPidd inst c₁) (s₂.setPidd inst c₂) :=
  { h with inst := getElem?_set_congr h.inst hc }

theorem Agree.setPidt (h : Agree 6 inst.toNat s₁ s₂) {c₁ c₂ : PidtInst} (hc : c₁ = c₂) :
    Agree 6 inst.toNat (s₁.setPidt inst c₁) (s₂.setPidt inst c₂) :=
  { h with inst := getElem?_set_congr h.inst hc }

theorem Agree.drew (h : Agree fam n s₁ s₂) {k₁ k₂ : Nat} (hk : k₁ = k₂) :
    Agree fam n (s₁.drew k₁) (s₂.drew k₂) :=
  { h with draws := congrArg₂ (· + ·) h.draws hk }

/-- Equal STATUS words in both states: the agreement that a SYS command needs, and no part of any other. -/
theorem Agree.withStatus (h : Agree fam n s₁ s₂) {st₁ st₂ : Word} (hst : fam = 0 → st₁ = st₂) :
    Agree fam n { s₁ with status := st₁ } { s₂ with status := st₂ } where
  params := h.params
  port := h.port
  draws := h.draws
  inst := match fam, h with
    | 0, _ => hst rfl
    | 1, h | 2, h | 3, h | 4, h | 5, h | 6, h => h.inst
    | _ + 7, _ => trivial

theorem Agree.respond (h : Agree fam n s₁ s₂) {r₁ r₂ : Resp} (hr : r₁ = r₂) :
    SameResult fam n s₁.port (s₁.respond r₁) (s₂.respond r₂) := by
  refine ⟨h.inst, ?_⟩
  rw [respOf_respond, h.port, respOf_respond, hr]

theorem Agree.raiseIllegal (h : Agree fam n s₁ s₂) (c : Cause) :
    SameResult fam n s₁.port (s₁.raiseIllegal c) (s₂.raiseIllegal c) := by
  refine (h.withStatus fun sys => ?_).respond rfl
  subst sys
  rw [h.port, show s₁.status = s₂.status from h.inst]

/-! ### Checks and outcomes -/

theorem Agree.opChecks (h : Agree fam n s₁ s₂) (count : Params → Nat) (p : Port) (inst idx : Byte) :
    s₁.opChecks p (count s₁.params) inst idx = s₂.opChecks p (count s₂.params) inst idx := by
  unfold State.opChecks State.portCheck
  rw [h.port, h.params]

theorem Agree.rregChecks (h : Agree fam n s₁ s₂) (count : Params → Nat) (inst : Byte)
    (cls : Params → Option RegClass) :
    s₁.rregChecks (count s₁.params) inst (cls s₁.params) = s₂.rregChecks (count s₂.params) inst (cls s₂.params) := by
  unfold State.rregChecks State.portCheck
  rw [h.port, h.params]

theorem Agree.wregChecks (h : Agree fam n s₁ s₂) (count : Params → Nat) (inst : Byte)
    (cls : Params → Option RegClass) :
    s₁.wregChecks (count s₁.params) inst (cls s₁.params) = s₂.wregChecks (count s₂.params) inst (cls s₂.params) := by
  unfold State.wregChecks State.portCheck
  rw [h.port, h.params]

/-- Where the checks are the same and the effects have equal results, so have the outcomes. -/
theorem Agree.conclude (h : Agree fam n s₁ s₂) {cs₁ cs₂ : List (Bool × Cause)} {u₁ u₂ t₁ t₂ : State}
    (h₁ : s₁.conclude cs₁ u₁ = .next t₁) (h₂ : s₂.conclude cs₂ u₂ = .next t₂) (checks : cs₁ = cs₂)
    (effect : SameResult fam n s₁.port u₁ u₂) : SameResult fam n s₁.port t₁ t₂ := by
  rw [conclude_eq, Host.Outcome.next.injEq] at h₁ h₂
  subst h₁ h₂ checks
  cases firstFailing cs₁ with
  | none => exact effect
  | some c => exact h.raiseIllegal c

end

/-! ### Commands -/

/-- A command has the same result from two states that agree on what it names. -/
theorem Agree.exec {i : Instr} {s₁ s₂ t₁ t₂ : State} (h : Agree (namedInst i).1 (namedInst i).2.toNat s₁ s₂)
    (h₁ : exec i s₁ = .next t₁) (h₂ : exec i s₂ = .next t₂) :
    SameResult (namedInst i).1 (namedInst i).2.toNat s₁.port t₁ t₂ := by
  cases i with
  | sysNop => exact h.conclude h₁ h₂ rfl (h.respond rfl)
  | sysStatR =>
    have status : s₁.status = s₂.status := h.inst
    exact h.conclude h₁ h₂ (h.opChecks (fun _ => 1) ..) (h.respond (by rw [status]))
  | sysStatC => exact h.conclude h₁ h₂ (h.opChecks (fun _ => 1) ..) ((h.withStatus fun _ => rfl).respond rfl)
  | sysParamR =>
    exact h.conclude h₁ h₂ (by rw [State.portCheck, State.portCheck, h.port, h.params]) (h.respond (by rw [h.params]))
  | dbInit => exact h.conclude h₁ h₂ (h.opChecks Params.nDb ..) ((h.setDb (by rw [h.params])).respond rfl)
  | dbRreg inst => exact h.conclude h₁ h₂ (h.opChecks Params.nDb ..) (h.respond (by rw [h.dbAt inst]))
  | dbRead inst =>
    exact h.conclude h₁ h₂ (h.opChecks Params.nDb ..)
      ((h.setDb (by rw [h.dbAt inst])).respond (by rw [h.dbAt inst, h.params]))
  | dbWrite inst =>
    exact h.conclude h₁ h₂ (h.opChecks Params.nDb ..) ((h.setDb (by rw [h.dbAt inst, h.params])).respond rfl)
  | biqInit inst => exact h.conclude h₁ h₂ (h.opChecks Params.nBiq ..) ((h.setBiq (by rw [h.biqAt inst])).respond rfl)
  | biqWreg inst idx =>
    have checks := h.wregChecks Params.nBiq inst fun m => (biqReg m.biqMaxSec idx).map biqClass
    exact h.conclude h₁ h₂ (congrArg₂ (· ++ ·) checks (by rw [h.params]))
      ((h.setBiq (by rw [h.biqAt inst, h.params])).respond rfl)
  | biqRreg inst idx =>
    exact h.conclude h₁ h₂ (h.rregChecks Params.nBiq inst fun m => (biqReg m.biqMaxSec idx).map biqClass)
      (h.respond (by rw [h.biqAt inst, h.params]))
  | biqSample inst =>
    exact h.conclude h₁ h₂ (h.opChecks Params.nBiq ..)
      (((h.setBiq (by rw [h.biqAt inst, h.draws])).drew (by rw [h.biqAt inst])).respond
        (by rw [h.biqAt inst, h.draws]))
  | cf1Init inst => exact h.conclude h₁ h₂ (h.opChecks Params.nCf1 ..) ((h.setCf1 (by rw [h.cf1At inst])).respond rfl)
  | cf1Wreg inst idx =>
    exact h.conclude h₁ h₂ (h.wregChecks Params.nCf1 inst fun _ => (cf1Reg idx).map cf1Class)
      ((h.setCf1 (by rw [h.cf1At inst])).respond rfl)
  | cf1Rreg inst idx =>
    exact h.conclude h₁ h₂ (h.rregChecks Params.nCf1 inst fun _ => (cf1Reg idx).map cf1Class)
      (h.respond (by rw [h.cf1At inst]))
  | cf1SampleAcc inst | cf1SampleGyr inst =>
    exact h.conclude h₁ h₂ (h.opChecks Params.nCf1 ..)
      (((h.setCf1 (by rw [h.cf1At inst, h.draws])).drew rfl).respond (by rw [h.cf1At inst, h.draws]))
  | cf2Init inst => exact h.conclude h₁ h₂ (h.opChecks Params.nCf2 ..) ((h.setCf2 (by rw [h.cf2At inst])).respond rfl)
  | cf2Wreg inst idx =>
    exact h.conclude h₁ h₂ (h.wregChecks Params.nCf2 inst fun _ => (cf2Reg idx).map cf2Class)
      ((h.setCf2 (by rw [h.cf2At inst])).respond rfl)
  | cf2Rreg inst idx =>
    exact h.conclude h₁ h₂ (h.rregChecks Params.nCf2 inst fun _ => (cf2Reg idx).map cf2Class)
      (h.respond (by rw [h.cf2At inst]))
  | cf2SampleAcc inst | cf2SampleGyr inst =>
    exact h.conclude h₁ h₂ (h.opChecks Params.nCf2 ..)
      (((h.setCf2 (by rw [h.cf2At inst, h.draws])).drew rfl).respond (by rw [h.cf2At inst, h.draws]))
  | piddInit inst =>
    exact h.conclude h₁ h₂ (h.opChecks Params.nPidd ..)
      (((h.setPidd (by rw [h.piddAt inst, h.draws])).drew rfl).respond rfl)
  | piddWreg inst idx =>
    exact h.conclude h₁ h₂ (h.wregChecks Params.nPidd inst fun _ => (piddReg idx).map piddClass)
      ((h.setPidd (by rw [h.piddAt inst])).respond rfl)
  | piddRreg inst idx =>
    exact h.conclude h₁ h₂ (h.rregChecks Params.nPidd inst fun _ => (piddReg idx).map piddClass)
      (h.respond (by rw [h.piddAt inst]))
  | piddCalc inst =>
    exact h.conclude h₁ h₂ (h.opChecks Params.nPidd ..)
      (((h.setPidd (by rw [h.piddAt inst, h.draws])).drew rfl).respond (by rw [h.piddAt inst, h.draws]))
  | pidtInit inst =>
    exact h.conclude h₁ h₂ (h.opChecks Params.nPidt ..) ((h.setPidt (by rw [h.pidtAt inst])).respond rfl)
  | pidtWreg inst idx =>
    exact h.conclude h₁ h₂ (h.wregChecks Params.nPidt inst fun _ => (pidtReg idx).map pidtClass)
      ((h.setPidt (by rw [h.pidtAt inst])).respond rfl)
  | pidtRreg inst idx =>
    exact h.conclude h₁ h₂ (h.rregChecks Params.nPidt inst fun _ => (pidtReg idx).map pidtClass)
      (h.respond (by rw [h.pidtAt inst]))
  | pidtCalc inst =>
    exact h.conclude h₁ h₂ (h.opChecks Params.nPidt ..)
      (((h.setPidt (by rw [h.pidtAt inst, h.draws])).drew rfl).respond (by rw [h.pidtAt inst, h.draws]))

/-- Settles O17: the hypotheses are that the two states agree, by `Agree.exec`. -/
theorem resultsDependOnTheNamedInstanceOnly : Obligations.ResultsDependOnTheNamedInstanceOnly := by
  intro i s₁ s₂ t₁ t₂ params port draws inst h₁ h₂
  rw [instrFamily_eq, instrTarget_eq] at inst ⊢
  exact Agree.exec ⟨params, port, draws, inst⟩ h₁ h₂

end Sys2Proof.Proofs
end

section
/-! SUPPORT. Legality (60_exceptions.md R139): the checks that decoding and a command's meaning make are those that
`illegalCause` writes, in its order, so an illegal command has the effect of IllegalCommand and no other. -/
namespace Sys2Proof.Proofs
open Sys2Proof Sys2Proof.Machine

/-! ### The rule as a list of checks -/

/-- Checks 4 to 6 of 60_exceptions.md R139 for a listed command with these fields, in their order. -/
def fieldChecks (m : Params) (p : Port) (fam op : BitVec 4) (inst idx : Byte) (op0 : Word) : List (Bool × Cause) :=
  [(!allowedOn p fam op, .wrongPort), instCheck (familyCount m fam.toNat) inst,
    (!indexSet m fam.toNat op.toNat idx.toNat, .badIdx),
    (fam != 0 && op == 1 && !mapWritable fam.toNat idx.toNat, .roReg),
    (fam == 2 && op == 1 && idx == 0 && decide (m.biqMaxSec < op0.toNat), .badValue)]

/-- All checks of 60_exceptions.md R139, in their order. -/
def requestChecks (m : Params) (p : Port) (q : Request) : List (Bool × Cause) :=
  (rsvOf q.cmd != 0, .rsvdBits) :: (decide (7 ≤ (famOf q.cmd).toNat), .rsvdFam) ::
    (!opListed (famOf q.cmd).toNat (opOf q.cmd).toNat, .badOp) ::
    fieldChecks m p (famOf q.cmd) (opOf q.cmd) (instOf q.cmd) (idxOf q.cmd) q.op0

theorem illegalCause_eq (m : Params) (p : Port) (q : Request) :
    illegalCause m p q = firstFailing (requestChecks m p q) := by
  have inst : ((famOf q.cmd).toNat = 0 ∧ (instOf q.cmd).toNat ≠ 0 ∨
      (famOf q.cmd).toNat ≠ 0 ∧ familyCount m (famOf q.cmd).toNat ≤ (instOf q.cmd).toNat) ↔
      familyCount m (famOf q.cmd).toNat ≤ (instOf q.cmd).toNat := by
    by_cases sys : (famOf q.cmd).toNat = 0
    · simp [sys, familyCount]; omega
    · simp [sys]
  simp only [illegalCause, requestChecks, fieldChecks, inst, instCheck, firstFailing_cons, firstFailing_nil]
  cases p <;> simp [allowedOn, ← BitVec.toNat_inj, and_assoc]

/-- A listed command with zero reserved bits is legal by checks 4 to 6 alone. -/
theorem illegalCause_of_fields {q : Request} {fam op : BitVec 4} {inst idx : Byte}
    (h : Laws.hasFields q.cmd fam op inst idx) (listed : fam.toNat < 7 ∧ opListed fam.toNat op.toNat = true)
    (m : Params) (p : Port) : illegalCause m p q = firstFailing (fieldChecks m p fam op inst idx q.op0) := by
  obtain ⟨rfl, rfl, rfl, rfl, rsv⟩ := h
  obtain ⟨fam, op⟩ := listed
  simp [illegalCause_eq, requestChecks, rsv, op, Nat.not_le.2 fam]

/-! ### Decoding -/

theorem hasFields_of_toNat {fam op : BitVec 4} {f o : Nat} (hf : fam.toNat = f) (ho : op.toNat = o)
    (inst idx : Byte) : Laws.hasFields (cmdWord (.ofNat 4 f) (.ofNat 4 o) inst idx) fam op inst idx := by
  rw [← hf, ← ho, BitVec.ofNat_toNat, BitVec.ofNat_toNat]
  exact Laws.hasFields_cmdWord ..

/-- A (FAM, OP) that selects a command is listed, the command's encoding has these fields, and BIQ.WREG takes `OP0`
along (30_encoding.md R65). -/
theorem encode_of_selectOp {fam op : BitVec 4} {inst idx : Byte} {op0 op1 : Word} {i : Instr}
    (h : selectOp fam op inst idx op0 op1 = some i) :
    Laws.hasFields (encode i).cmd fam op inst idx ∧ (fam.toNat < 7 ∧ opListed fam.toNat op.toNat = true) ∧
      (fam.toNat = 2 ∧ op.toNat = 1 → (encode i).op0 = op0) := by
  unfold selectOp at h
  split at h
  case h_31 => cases h
  all_goals
    rename_i hf ho
    cases h
    refine ⟨hasFields_of_toNat hf ho inst idx, by simp [hf, ho, opListed], fun biqWreg => ?_⟩
    simp_all [encode]

/-- The opcode map selects a command for every (FAM, OP) that is listed (30_encoding.md R65). -/
theorem opListed_of_selectOp_eq_none {fam op : BitVec 4} {inst idx : Byte} {op0 op1 : Word}
    (h : selectOp fam op inst idx op0 op1 = none) : opListed fam.toNat op.toNat = false := by
  unfold selectOp at h
  split at h
  case h_31 => unfold opListed; split <;> grind
  all_goals cases h

/-- A word that fails checks 1 to 3 has the cause that decoding gives. -/
theorem illegalCause_of_decode_error {q : Request} {c : Cause} (h : decode q = .error c) (m : Params) (p : Port) :
    illegalCause m p q = some c := by
  rw [illegalCause_eq]
  unfold decode at h
  split_ifs at h with rsv fam
  · cases h; simp_all [requestChecks]
  · cases h; simp_all [requestChecks]
  · split at h
    case h_1 none => cases h; simp_all [requestChecks, opListed_of_selectOp_eq_none none]
    case h_2 => cases h

/-- A word that decodes has zero reserved bits and the fields of its command's encoding, all that the checks read. -/
theorem encode_of_decode {q : Request} {i : Instr} (h : decode q = .ok i) :
    rsvOf q.cmd = 0#8 ∧ Laws.hasFields (encode i).cmd (famOf q.cmd) (opOf q.cmd) (instOf q.cmd) (idxOf q.cmd) ∧
      ((famOf q.cmd).toNat < 7 ∧ opListed (famOf q.cmd).toNat (opOf q.cmd).toNat = true) ∧
      ((famOf q.cmd).toNat = 2 ∧ (opOf q.cmd).toNat = 1 → (encode i).op0 = q.op0) := by
  unfold decode at h
  split_ifs at h with rsv fam
  split at h
  case h_1 => cases h
  case h_2 select => cases h; exact ⟨not_not.1 rsv, encode_of_selectOp select⟩

/-- A word that decodes is exactly as legal as its command's encoding. -/
theorem illegalCause_encode {q : Request} {i : Instr} (h : decode q = .ok i) (m : Params) (p : Port) :
    illegalCause m p (encode i) = illegalCause m p q := by
  obtain ⟨rsv, fields, listed, value⟩ := encode_of_decode h
  rw [illegalCause_of_fields fields listed, illegalCause_of_fields ⟨rfl, rfl, rfl, rfl, rsv⟩ listed]
  by_cases biqWreg : (famOf q.cmd).toNat = 2 ∧ (opOf q.cmd).toNat = 1
  · rw [value biqWreg]
  · have noValue : ¬ (famOf q.cmd = 2 ∧ opOf q.cmd = 1) := fun ⟨h2, h1⟩ => biqWreg (by simp [h2, h1])
    grind [fieldChecks]

/-- Decoding reads back the fields that encoding packs, and the opcode map is the same both ways (30_encoding.md
R74). -/
theorem decode_encode (i : Instr) : decode (encode i) = .ok i := by
  cases i <;> simp [decode, encode, selectOp, Laws.rsvOf_cmdWord, Laws.famOf_cmdWord, Laws.opOf_cmdWord,
    Laws.instOf_cmdWord, Laws.idxOf_cmdWord]

/-! ### Register maps (10_state.md R24 to R30) -/

/-- The class of the register that an index names, where it names one, is what the rule's map says of the index. -/
structure MapFits (m : Params) (fam : Nat) (idx : Byte) (named : Option RegClass) : Prop where
  lists : mapLists m fam idx.toNat = named.isSome
  writable : named.isSome → mapWritable fam idx.toNat = (named == some .rw)

theorem cf1_mapFits (m : Params) (idx : Byte) : MapFits m 3 idx ((cf1Reg idx).map cf1Class) := by
  unfold cf1Reg
  constructor <;> rcases idx.toNat with _ | _ | _ | n <;> simp [mapLists, mapWritable, cf1Class]

theorem cf2_mapFits (m : Params) (idx : Byte) : MapFits m 4 idx ((cf2Reg idx).map cf2Class) := by
  unfold cf2Reg
  constructor <;> rcases idx.toNat with _ | _ | _ | _ | _ | n <;> simp [mapLists, mapWritable, cf2Class]

theorem pidd_mapFits (m : Params) (idx : Byte) : MapFits m 5 idx ((piddReg idx).map piddClass) := by
  unfold piddReg
  constructor <;> rcases idx.toNat with _ | _ | _ | _ | _ | _ | _ | _ | _ | n <;>
    simp [mapLists, mapWritable, piddClass]

theorem pidt_mapFits (m : Params) (idx : Byte) : MapFits m 6 idx ((pidtReg idx).map pidtClass) := by
  unfold pidtReg
  constructor <;> rcases idx.toNat with _ | _ | _ | _ | _ | _ | n <;> simp [mapLists, mapWritable, pidtClass]

/-- Offsets 0 to 4 of a section are RW, 5 and 6 read-only, and 7 is reserved (10_state.md R26). -/
theorem secReg_class (j : Nat) {k : Nat} (hk : k < 8) :
    ((secReg k).map (BiqReg.sec j)).map biqClass =
      if k < 5 then some .rw else if k < 7 then some .roState else none := by
  interval_cases k <;> rfl

theorem biq_mapFits (m : Params) (idx : Byte) : MapFits m 2 idx ((biqReg m.biqMaxSec idx).map biqClass) := by
  simp only [biqReg]
  split_ifs with h0 h1 h8 hsec
  · constructor <;> simp [mapLists, mapWritable, biqClass, h0]
  · constructor <;> simp [mapLists, mapWritable, biqClass, h1]
  · constructor <;> simp [mapLists, mapWritable]; omega
  · rw [secReg_class _ (Nat.mod_lt _ (by decide))]
    constructor <;> simp [mapLists, mapWritable] <;> grind
  · constructor <;> simp [mapLists, mapWritable]; omega

/-! ### Commands -/

/-- The (FAM, OP) is listed, and the port is the only one that accepts it (30_encoding.md R65, R70). -/
def listedOnlyOn (port : Port) (fam op : BitVec 4) : Bool :=
  decide (fam.toNat < 7) && opListed fam.toNat op.toNat &&
    (allowedOn .r fam op == (port == .r)) && (allowedOn .w fam op == (port == .w))

/-- The command of this (FAM, OP) requires IDX 0 and is no WREG (30_encoding.md R67). -/
def needsIdxZero (fam op : BitVec 4) : Bool :=
  if fam = 0 then op != 3 else op != 1 && (op != 2 || fam == 1)

theorem indexSet_of_needsIdxZero {fam op : BitVec 4} (h : needsIdxZero fam op = true) (m : Params) (n : Nat) :
    indexSet m fam.toNat op.toNat n = (n == 0) := by
  unfold needsIdxZero at h
  unfold indexSet
  split_ifs <;> simp_all [← BitVec.toNat_inj, mapLists]

theorem not_wreg_of_needsIdxZero {fam op : BitVec 4} (h : needsIdxZero fam op = true) : fam = 0 ∨ op ≠ 1 := by
  unfold needsIdxZero at h
  split_ifs at h <;> simp_all

section
variable {q : Request} {fam op : BitVec 4} {inst idx : Byte} {port : Port} {named : Option RegClass} {n : Nat}
  (s : State)

/-- Checks 4 to 6 of a listed command that one port accepts. -/
theorem illegalCause_of_listedOnlyOn (h : Laws.hasFields q.cmd fam op inst idx)
    (listed : listedOnlyOn port fam op = true) (count : familyCount s.params fam.toNat = n) :
    illegalCause s.params s.port q =
      if s.port ≠ port then some .wrongPort
      else if n ≤ inst.toNat then some .badInst
      else if indexSet s.params fam.toNat op.toNat idx.toNat = false then some .badIdx
      else if fam ≠ 0#4 ∧ op = 1#4 ∧ mapWritable fam.toNat idx.toNat = false then some .roReg
      else if fam = 2#4 ∧ op = 1#4 ∧ idx = 0#8 ∧ s.params.biqMaxSec < q.op0.toNat then some .badValue
      else none := by
  simp only [listedOnlyOn, Bool.and_eq_true, decide_eq_true_eq, beq_iff_eq] at listed
  obtain ⟨⟨listed, onR⟩, onW⟩ := listed
  have accepts : allowedOn s.port fam op = (s.port == port) := by
    cases hp : s.port with
    | r => rw [onR, BEq.comm]
    | w => rw [onW, BEq.comm]
  rw [illegalCause_of_fields h listed]
  simp [fieldChecks, instCheck, accepts, count, and_assoc]

/-- Checks 4 to 6 of a command that requires IDX 0. -/
theorem opChecks_eq_illegalCause (h : Laws.hasFields q.cmd fam op inst idx) (listed : listedOnlyOn port fam op = true)
    (zero : needsIdxZero fam op = true) (count : familyCount s.params fam.toNat = n) :
    firstFailing (s.opChecks port n inst idx) = illegalCause s.params s.port q := by
  have index : idx.toNat = 0 ↔ idx = 0#8 := by simp [← BitVec.toNat_inj]
  rw [illegalCause_of_listedOnlyOn s h listed count, indexSet_of_needsIdxZero zero, firstFailing_opChecks]
  obtain sys | notWreg := not_wreg_of_needsIdxZero zero
  · simp [sys, index]
  · simp [show op ≠ 1#4 from notWreg, index]

/-- Checks 4 to 6 of an RREG. -/
theorem rregChecks_eq_illegalCause (h : Laws.hasFields q.cmd fam 2#4 inst idx) (listed : listedOnlyOn .r fam 2#4 = true)
    (notSys : fam ≠ 0#4) (map : MapFits s.params fam.toNat idx named)
    (count : familyCount s.params fam.toNat = n) :
    firstFailing (s.rregChecks n inst named) = illegalCause s.params s.port q := by
  have index : indexSet s.params fam.toNat 2 idx.toNat = named.isSome := by
    rw [← map.lists, indexSet, if_neg (by simpa [← BitVec.toNat_inj] using notSys)]; rfl
  rw [illegalCause_of_listedOnlyOn s h listed count, firstFailing_rregChecks]
  simp [index]

/-- Checks 4 to 6 of a WREG, followed by the check of NSEC's value that BIQ.WREG alone makes. -/
theorem wregChecks_eq_illegalCause (h : Laws.hasFields q.cmd fam 1#4 inst idx) (listed : listedOnlyOn .r fam 1#4 = true)
    (notSys : fam ≠ 0#4) (map : MapFits s.params fam.toNat idx named) {more : List (Bool × Cause)}
    (value : firstFailing more =
      if fam = 2#4 ∧ idx = 0#8 ∧ s.params.biqMaxSec < q.op0.toNat then some .badValue else none)
    (count : familyCount s.params fam.toNat = n) :
    firstFailing (s.wregChecks n inst named ++ more) = illegalCause s.params s.port q := by
  have index : indexSet s.params fam.toNat 1 idx.toNat = named.isSome := by
    rw [← map.lists, indexSet, if_neg (by simpa [← BitVec.toNat_inj] using notSys)]; rfl
  rw [illegalCause_of_listedOnlyOn s h listed count, firstFailing_wregChecks, value]
  cases named with
  | none => simp [index]
  | some c => simp [index, notSys, map.writable rfl]

/-- Checks 4 to 6 of a WREG of another family than BIQ. -/
theorem wregChecks_eq_illegalCause_of_ne_biq (h : Laws.hasFields q.cmd fam 1#4 inst idx)
    (listed : listedOnlyOn .r fam 1#4 = true) (other : fam ≠ 0#4 ∧ fam ≠ 2#4)
    (map : MapFits s.params fam.toNat idx named) (count : familyCount s.params fam.toNat = n) :
    firstFailing (s.wregChecks n inst named) = illegalCause s.params s.port q := by
  rw [← List.append_nil (s.wregChecks n inst named)]
  exact wregChecks_eq_illegalCause s h listed other.1 map (by simp [other.2]) count

end

theorem biqReg_eq_nsec (maxSec : Nat) (idx : Byte) : biqReg maxSec idx = some .nsec ↔ idx = 0#8 := by
  simp only [biqReg, ← BitVec.toNat_inj]
  split_ifs <;> simp_all

theorem paramValue_isSome (m : Params) (idx : Byte) : (paramValue m idx).isSome = decide (idx.toNat ≤ 8) := by
  unfold paramValue
  rcases idx.toNat with _ | _ | _ | _ | _ | _ | _ | _ | _ | n <;> simp

/-- Every command is judged by the checks of 60_exceptions.md R139 that its meaning makes, and the first that fails has
the cause that the rule gives. -/
theorem exec_checks (i : Instr) (s : State) :
    ∃ cs t, exec i s = s.conclude cs t ∧ firstFailing cs = illegalCause s.params s.port (encode i) := by
  cases i with
  | sysNop inst idx =>
    refine ⟨_, _, rfl, ?_⟩
    rw [illegalCause_of_fields (Laws.EncodedFields.sysNop inst idx) (by decide)]
    cases s.port <;> simp [fieldChecks, allowedOn, indexSet, idxCheck, instCheck, familyCount, ← BitVec.toNat_inj]
  | sysParamR inst idx =>
    refine ⟨_, _, rfl, ?_⟩
    rw [illegalCause_of_listedOnlyOn (port := .r) s (Laws.EncodedFields.sysParamR inst idx) (by decide) rfl]
    simp [State.portCheck, instCheck, familyCount, indexSet, ← paramValue_isSome s.params]
  | dbWrite => exact ⟨_, _, rfl, opChecks_eq_illegalCause s (Laws.hasFields_cmdWord ..) (by decide) (by decide) rfl⟩
  | sysStatR | sysStatC | dbInit | dbRreg | dbRead | biqInit | biqSample | cf1Init | cf1SampleAcc | cf1SampleGyr
  | cf2Init | cf2SampleAcc | cf2SampleGyr | piddInit | piddCalc | pidtInit | pidtCalc =>
    exact ⟨_, _, rfl, opChecks_eq_illegalCause s (Laws.hasFields_cmdWord ..) (by decide) (by decide) rfl⟩
  | biqRreg _ idx =>
    exact ⟨_, _, rfl, rregChecks_eq_illegalCause s (Laws.hasFields_cmdWord ..) rfl (by decide) (biq_mapFits _ idx) rfl⟩
  | cf1Rreg _ idx =>
    exact ⟨_, _, rfl, rregChecks_eq_illegalCause s (Laws.hasFields_cmdWord ..) rfl (by decide) (cf1_mapFits _ idx) rfl⟩
  | cf2Rreg _ idx =>
    exact ⟨_, _, rfl, rregChecks_eq_illegalCause s (Laws.hasFields_cmdWord ..) rfl (by decide) (cf2_mapFits _ idx) rfl⟩
  | piddRreg _ idx =>
    exact ⟨_, _, rfl, rregChecks_eq_illegalCause s (Laws.hasFields_cmdWord ..) rfl (by decide) (pidd_mapFits _ idx) rfl⟩
  | pidtRreg _ idx =>
    exact ⟨_, _, rfl, rregChecks_eq_illegalCause s (Laws.hasFields_cmdWord ..) rfl (by decide) (pidt_mapFits _ idx) rfl⟩
  | biqWreg inst idx op0 =>
    refine ⟨_, _, rfl, ?_⟩
    have fields := Laws.EncodedFields.biqWreg inst idx op0
    refine wregChecks_eq_illegalCause s fields rfl (by decide) (biq_mapFits _ idx) ?_ rfl
    simp [biqReg_eq_nsec, encode]
  | cf1Wreg _ idx =>
    exact ⟨_, _, rfl,
      wregChecks_eq_illegalCause_of_ne_biq s (Laws.EncodedFields.cf1Wreg ..) rfl (by decide) (cf1_mapFits _ idx) rfl⟩
  | cf2Wreg _ idx =>
    exact ⟨_, _, rfl,
      wregChecks_eq_illegalCause_of_ne_biq s (Laws.EncodedFields.cf2Wreg ..) rfl (by decide) (cf2_mapFits _ idx) rfl⟩
  | piddWreg _ idx =>
    exact ⟨_, _, rfl,
      wregChecks_eq_illegalCause_of_ne_biq s (Laws.EncodedFields.piddWreg ..) rfl (by decide) (pidd_mapFits _ idx) rfl⟩
  | pidtWreg _ idx =>
    exact ⟨_, _, rfl,
      wregChecks_eq_illegalCause_of_ne_biq s (Laws.EncodedFields.pidtWreg ..) rfl (by decide) (pidt_mapFits _ idx) rfl⟩

/-- An illegal command has the effect of IllegalCommand with the rule's cause and no other (60_exceptions.md R140). -/
theorem refusesIllegal_all (i : Instr) : refusesIllegal i := by
  intro s c illegal
  obtain ⟨cs, t, hexec, hcs⟩ := exec_checks i s
  rw [hexec, conclude_illegal (hcs.trans illegal), raiseIllegal_eq]

/-- A step's next event has its effect by `afterEvent`, and is taken off. -/
theorem step_eq_afterEvent {s : State} {e : Event} {rest : List Event} (h : s.inputs = e :: rest) :
    step s = .next (afterEvent { s with inputs := rest } e) := by
  cases e with
  | reset rd wd => simp only [step, nextEvent_cons h]; rfl
  | command p q =>
    simp only [step, nextEvent_cons h, afterEvent]
    cases hq : decode q with
    | error c =>
      rw [illegalCause_of_decode_error hq]
      exact congrArg Host.Outcome.next (raiseIllegal_eq ..)
    | ok i =>
      cases hc : illegalCause s.params p q with
      | some c =>
        simp only []
        exact refusesIllegal_all i _ c ((illegalCause_encode hq ..).trans hc)
      | none =>
        obtain ⟨t, ht⟩ := exec_next i { s with inputs := rest, port := p }
        simp only [ht]
        exact ht

end Sys2Proof.Proofs
end

section
/-! SUPPORT. Runs: a run drains its events, and its result is their effects in order (20_memory.md R51, R53). -/
namespace Sys2Proof.Proofs
open Sys2Proof Sys2Proof.Machine

/-- An event's effect leaves the waiting events as they are. -/
theorem inputs_afterEvent (s : State) (e : Event) : (afterEvent s e).inputs = s.inputs :=
  (congrArg State.inputs (afterEvent_inputs s e s.inputs) :)

theorem inputs_foldl_afterEvent (evs : List Event) (s : State) : (evs.foldl afterEvent s).inputs = s.inputs := by
  induction evs generalizing s with
  | nil => rfl
  | cons e rest ih => exact (ih _).trans (inputs_afterEvent s e)

theorem run_succ {M : Host.Core} (n : Nat) {s t : M.State} (h : M.step s = .next t) : M.run (n + 1) s = M.run n t := by
  rw [Host.Core.run, h]

/-- A run of as many steps as there are events waiting applies their effects in order. -/
theorem run_eq_foldl (evs : List Event) (s : State) (h : s.inputs = evs) :
    Host.Core.run core evs.length s = .next (evs.foldl afterEvent { s with inputs := [] }) := by
  induction evs generalizing s with
  | nil => cases s; cases h; rfl
  | cons e rest ih =>
    have taken : { afterEvent { s with inputs := rest } e with inputs := [] } = afterEvent { s with inputs := [] } e :=
      (afterEvent_inputs { s with inputs := rest } e []).symm
    calc Host.Core.run core (rest.length + 1) s
        = Host.Core.run core rest.length (afterEvent { s with inputs := rest } e) :=
          run_succ _ (step_eq_afterEvent h)
      _ = .next (rest.foldl afterEvent { afterEvent { s with inputs := rest } e with inputs := [] }) :=
          ih _ (inputs_afterEvent _ e)
      _ = .next ((e :: rest).foldl afterEvent { s with inputs := [] }) := by rw [taken]; rfl

/-- Settles O12: `run_eq_foldl`, by induction on the events, with `step_eq_afterEvent` for one step. -/
theorem everyEventTakesEffect : Obligations.EveryEventTakesEffect := by
  intro s
  exact ⟨_, run_eq_foldl s.inputs s rfl, inputs_foldl_afterEvent s.inputs _, rfl⟩

end Sys2Proof.Proofs
end

section
/-! SUPPORT. The W port (20_memory.md R54): a command there raises IllegalCommand, answers, or publishes a payload. -/
namespace Sys2Proof.Proofs
open Sys2Proof Sys2Proof.Machine

/-- Of the commands only SYS.NOP and DB.WRITE are legal on the W port (30_encoding.md R70). -/
theorem legal_on_w {m : Params} {i : Instr} (h : illegalCause m .w (encode i) = none) :
    (∃ inst idx, i = .sysNop inst idx) ∨ ∃ inst idx op0 op1, i = .dbWrite inst idx op0 op1 := by
  have accepts : allowedOn .w (famOf (encode i).cmd) (opOf (encode i).cmd) = true := by
    rw [illegalCause_eq] at h
    simp only [requestChecks, fieldChecks, firstFailing_cons] at h
    grind
  cases i with
  | sysNop inst idx => exact .inl ⟨inst, idx, rfl⟩
  | dbWrite inst idx op0 op1 => exact .inr ⟨inst, idx, op0, op1, rfl⟩
  | _ => simp [encode, Laws.famOf_cmdWord, Laws.opOf_cmdWord, allowedOn] at accepts

/-- What a command on the W port can do; it replaces a double buffer only if it is a legal DB.WRITE of it. -/
theorem exec_on_w {i : Instr} {s t : State} (port : s.port = .w) (h : exec i s = .next t) :
    (∃ c, t = s.raiseIllegal c) ∨ (∃ r, t = s.respond r) ∨
      ∃ inst idx op0 op1 d r, i = .dbWrite inst idx op0 op1 ∧ illegalCause s.params .w (encode i) = none ∧
        t = (s.setDb inst d).respond r := by
  cases legal : illegalCause s.params .w (encode i) with
  | some c =>
    rw [← port] at legal
    rw [refusesIllegal_all i s c legal, Host.Outcome.next.injEq] at h
    exact .inl ⟨c, by rw [← h, raiseIllegal_eq]⟩
  | none =>
    obtain ⟨inst, idx, rfl⟩ | ⟨inst, idx, op0, op1, rfl⟩ := legal_on_w legal
    · obtain ⟨c, -, rfl⟩ | ⟨-, rfl⟩ := conclude_cases h
      · exact .inl ⟨c, rfl⟩
      · exact .inr (.inl ⟨_, rfl⟩)
    · obtain ⟨c, -, rfl⟩ | ⟨-, rfl⟩ := conclude_cases h
      · exact .inl ⟨c, rfl⟩
      · exact .inr (.inr ⟨inst, idx, op0, op1, _, _, rfl, rfl, rfl⟩)

/-- On the W port a response changes nothing but that port's response. -/
theorem respond_on_w {s : State} (port : s.port = .w) (r : Resp) : s.respond r = { s with wResp := r } := by
  simp [respond_eq, port]

theorem raiseIllegal_on_w {s : State} (port : s.port = .w) (c : Cause) :
    s.raiseIllegal c = { s with status := recordCause .w c s.status, wResp := Resp.ofCause c } := by
  simp [State.raiseIllegal, respond_eq, port]

/-- The record of a cause on the W port changes that port's sticky bit and cause field only (60_exceptions.md R141,
R142). -/
theorem recordCause_w_other (c : Cause) (st : Word) {k : Nat} (sticky : k ≠ 1) (field : ¬ (12 ≤ k ∧ k < 16)) :
    (recordCause .w c st).getLsbD k = st.getLsbD k := by
  cases h : statusIll .w st with
  | true => rw [recordCause_kept h]
  | false => rw [recordCause_getLsbD_w c st h, if_neg sticky, if_neg field]

/-- What a command on the W port leaves as it is: everything but double buffers, its own fields of STATUS and its
response, and of the double buffers those that it may not write. -/
structure WriteFrame (mayWrite : Byte → Prop) (s t : State) : Prop where
  rest : t = { s with db := t.db, status := t.status, wResp := t.wResp }
  status : ∀ k, k ≠ 1 → ¬ (12 ≤ k ∧ k < 16) → t.status.getLsbD k = s.status.getLsbD k
  db : ∀ n : Byte, ¬ mayWrite n → t.db[n.toNat]? = s.db[n.toNat]?

section
variable {s : State} {mayWrite : Byte → Prop} (port : s.port = .w)
include port

theorem WriteFrame.respond (r : Resp) : WriteFrame mayWrite s (s.respond r) := by
  rw [respond_on_w port]
  exact ⟨rfl, fun _ _ _ => rfl, fun _ _ => rfl⟩

theorem WriteFrame.raiseIllegal (c : Cause) : WriteFrame mayWrite s (s.raiseIllegal c) := by
  rw [raiseIllegal_on_w port]
  exact ⟨rfl, fun k => recordCause_w_other c s.status, fun _ _ => rfl⟩

theorem WriteFrame.setDb {inst : Byte} (named : mayWrite inst) (d : DbInst) (r : Resp) :
    WriteFrame mayWrite s ((s.setDb inst d).respond r) := by
  rw [respond_on_w (s := s.setDb inst d) port]
  refine ⟨rfl, fun _ _ _ => rfl, fun n other => List.getElem?_set_ne fun same => other ?_⟩
  rwa [← BitVec.eq_of_toNat_eq same]

end

/-- A legal word that decodes to a DB.WRITE is one of the buffer that the command names. -/
theorem writesDb_of_decode {m : Params} {q : Request} {inst idx : Byte} {op0 op1 : Word}
    (h : decode q = .ok (.dbWrite inst idx op0 op1))
    (legal : illegalCause m .w (encode (.dbWrite inst idx op0 op1)) = none) :
    (Event.command .w q).writesDb m inst = true := by
  obtain ⟨-, ⟨fam, op, target, -⟩, -⟩ := encode_of_decode h
  simp only [encode, Laws.famOf_cmdWord, Laws.opOf_cmdWord, Laws.instOf_cmdWord] at fam op target
  rw [illegalCause_encode h] at legal
  simp [Event.writesDb, legal, ← fam, ← op, ← target]

/-- Settles O15: a word that does not decode and each of the outcomes of `exec_on_w` has the frame. -/
theorem writePortTouchesOnlyBuffersAndItsRecord : Obligations.WritePortTouchesOnlyBuffersAndItsRecord := by
  intro s t q rest hin hstep
  have frame : WriteFrame (fun n => (Event.command .w q).writesDb s.params n = true)
      ({ s with inputs := rest }.serve .w) t := by
    obtain ⟨hin', -⟩ | ⟨_, _, _, hin', -⟩ | ⟨_, _, _, c, hin', -, rfl⟩ | ⟨_, _, _, i, hin', hdec, hexec⟩ :=
      step_cases hstep
    all_goals rw [hin] at hin'; cases hin'
    · exact .raiseIllegal rfl c
    · obtain ⟨c, rfl⟩ | ⟨r, rfl⟩ | ⟨inst, idx, op0, op1, d, r, rfl, legal, rfl⟩ := exec_on_w rfl hexec
      · exact .raiseIllegal rfl c
      · exact .respond rfl r
      · exact .setDb rfl (writesDb_of_decode hdec legal) d r
  exact ⟨frame.rest, frame.status, fun n other => frame.db n (by simp [other])⟩

end Sys2Proof.Proofs
end

section
/-! SUPPORT. Double-buffer payloads (20_memory.md R48): a byte of a packed word, and a DB.WRITE followed by a
DB.READ. -/
namespace Sys2Proof.Proofs
open Sys2Proof Sys2Proof.Machine

/-! ### Packing -/

/-- Byte `k` of word `w` of a packing is byte `4*w+k` of the payload (20_memory.md R48). -/
theorem byte_payloadWord (bytes : List Byte) (w : Nat) {k : Nat} (hk : k < 4) :
    (payloadWord bytes w).extractLsb' (8 * k) 8 = bytes.getD (4 * w + k) 0 := by
  unfold payloadWord
  interval_cases k
  · rw [Laws.extract_append_low _ _ _ _ (by decide)]; simp
  · rw [Laws.extract_append_high _ _ _ _ (by decide), Laws.extract_append_low _ _ _ _ (by decide)]; simp
  · rw [Laws.extract_append_high _ _ _ _ (by decide), Laws.extract_append_high _ _ _ _ (by decide),
      Laws.extract_append_low _ _ _ _ (by decide)]; simp
  · rw [Laws.extract_append_high _ _ _ _ (by decide), Laws.extract_append_high _ _ _ _ (by decide),
      Laws.extract_append_high _ _ _ _ (by decide)]; simp

/-- A slot that holds the packing's word `j div 4` holds byte `j` of the payload. -/
theorem payloadByte_of_getD {slot : List Word} {bytes : List Byte} {j : Nat}
    (h : slot.getD (j / 4) 0 = payloadWord bytes (j / 4)) : payloadByte slot j = bytes.getD j 0 := by
  rw [payloadByte, h, byte_payloadWord _ _ (Nat.mod_lt _ (by decide)), Nat.div_add_mod]

/-! ### Runs of legal commands -/

/-- A step whose next event is the encoding of a command runs that command on its port. -/
theorem step_encode {s : State} {p : Port} {i : Instr} {rest : List Event}
    (h : s.inputs = .command p (encode i) :: rest) : step s = exec i { s with inputs := rest, port := p } := by
  simp only [step, nextEvent_cons h, decode_encode]
  rfl

/-- The step of a legal DB.WRITE (40_double_buffer.md R83). -/
theorem step_dbWrite {s : State} {n : Byte} {op0 op1 : Word} {rest : List Event}
    (h : s.inputs = .command .w (encode (.dbWrite n 0 op0 op1)) :: rest) (count : n.toNat < s.params.nDb) :
    ∃ t, step s = .next t ∧ t.inputs = rest ∧ t.params = s.params ∧
      t.db = s.db.set n.toNat ((s.dbAt n).publish ([op0, op1].take s.params.dbSlotWords)) :=
  ⟨_, (step_encode h).trans (conclude_legal (opChecks_pass.2 ⟨rfl, count, rfl⟩)), rfl, rfl, rfl⟩

/-- The step of a legal DB.READ (40_double_buffer.md R82). -/
theorem step_dbRead {s : State} {n : Byte} {rest : List Event}
    (h : s.inputs = .command .r (encode (.dbRead n 0)) :: rest) (count : n.toNat < s.params.nDb) :
    ∃ t, step s = .next t ∧ t.inputs = rest ∧ t.params = s.params ∧
      t.db = s.db.set n.toNat { s.dbAt n with fresh := false } ∧
      t.rResp =
        { flags := flagsWord false 0 (s.dbAt n).fresh (s.dbAt n).rsel
          d0 := (s.dbAt n).readable.getD 0 0
          d1 := if s.params.dbSlotWords = 2 then (s.dbAt n).readable.getD 1 0 else 0 } :=
  ⟨_, (step_encode h).trans (conclude_legal (opChecks_pass.2 ⟨rfl, count, rfl⟩)), rfl, rfl, rfl, rfl⟩

/-- A published payload is the readable slot (40_double_buffer.md R83). -/
theorem readable_publish (d : DbInst) (payload : List Word) : (d.publish payload).readable = payload := by
  unfold DbInst.readable DbInst.publish
  cases d.rsel <;> rfl

/-- After a DB.WRITE and a DB.READ of a buffer, the payload stands in its readable slot, and the read has answered the
words of that slot (40_double_buffer.md R82, R83). -/
theorem run_dbWrite_dbRead {s : State} {n : Byte} {op0 op1 : Word}
    (inputs : s.inputs = [.command .w (encode (.dbWrite n 0 op0 op1)), .command .r (encode (.dbRead n 0))])
    (count : n.toNat < s.params.nDb) (held : n.toNat < s.db.length) :
    ∃ t d, Host.Core.run core 2 s = .next t ∧ t.db[n.toNat]? = some d ∧
      d.readable = [op0, op1].take s.params.dbSlotWords ∧ t.rResp.d0 = d.readable.getD 0 0 ∧
      t.rResp.d1 = if s.params.dbSlotWords = 2 then d.readable.getD 1 0 else 0 := by
  obtain ⟨u, hu, uInputs, uParams, uDb⟩ := step_dbWrite inputs count
  rw [← uParams] at count
  obtain ⟨t, ht, -, -, tDb, resp⟩ := step_dbRead uInputs count
  have published : u.dbAt n = (s.dbAt n).publish ([op0, op1].take s.params.dbSlotWords) := by
    rw [State.dbAt, uDb]
    simp [held]
  have readable := readable_publish (s.dbAt n) ([op0, op1].take s.params.dbSlotWords)
  rw [← published] at readable
  refine ⟨t, { u.dbAt n with fresh := false }, (run_succ 1 hu).trans (run_succ 0 ht), ?_, readable, ?_, ?_⟩
  · rw [tDb, uDb]
    simp [held]
  · rw [resp]; rfl
  · rw [resp, uParams]; rfl

/-! ### The statement -/

/-- A word that the payload has is a word of the slot. -/
theorem getElem?_take_payloadWords (bytes : List Byte) {words k : Nat} (hk : k < words) (two : words ≤ 2) :
    ([payloadWord bytes 0, payloadWord bytes 1].take words)[k]? = some (payloadWord bytes k) := by
  rw [List.getElem?_take_of_lt hk]
  match k with
  | 0 | 1 => rfl
  | _ + 2 => omega

/-- The words that a DB.READ answers are those that the slot has (40_double_buffer.md R82). -/
theorem getD_readAnswer {slot : List Word} {words k : Nat} (hk : k < words) (two : words ≤ 2) :
    [slot.getD 0 0, if words = 2 then slot.getD 1 0 else 0].getD k 0 = slot.getD k 0 := by
  match k with
  | 0 => rfl
  | 1 => rw [if_pos (by omega)]; rfl
  | _ + 2 => omega

/-- Settles O32: the packing by `byte_payloadWord`, the slot and the answer by `run_dbWrite_dbRead`. -/
theorem payloadBytesArePackedLittleEndian : Obligations.PayloadBytesArePackedLittleEndian := by
  refine ⟨fun bytes j hj => payloadByte_of_getD ?_, fun s n bytes wf count size => ?_⟩
  · have : j / 4 < 2 := by omega
    interval_cases j / 4 <;> rfl
  · have fits := (wf_iff s).1 wf
    have two := slotWords_le_two fits.legal
    obtain ⟨t, d, run, held, readable, d0, d1⟩ := run_dbWrite_dbRead
      (s := { s with inputs := [.command .w (encode (.dbWrite n 0 (payloadWord bytes 0) (payloadWord bytes 1))),
        .command .r (encode (.dbRead n 0))] }) rfl count (by simpa [fits.dbCount] using count)
    refine ⟨t, d, run, held, fun j b hb => ?_⟩
    have hj : j / 4 < s.params.dbSlotWords := by
      have := (List.getElem?_eq_some_iff.1 hb).1
      omega
    have byte : bytes.getD j 0 = b := by rw [List.getD_eq_getElem?_getD, hb]; rfl
    have slot : d.readable[j / 4]? = some (payloadWord bytes (j / 4)) := by
      rw [readable]; exact getElem?_take_payloadWords bytes hj two
    refine ⟨⟨_, slot, ?_⟩, ?_⟩
    · rw [byte_payloadWord _ _ (Nat.mod_lt _ (by decide)), Nat.div_add_mod, byte]
    · rw [← byte]
      refine payloadByte_of_getD ?_
      rw [d0, d1, getD_readAnswer hj two, List.getD_eq_getElem?_getD, slot]
      rfl

end Sys2Proof.Proofs
end

section
/-! SUPPORT. Repeated commands (20_memory.md R52): a command whose update and answer come out the same on the state that
it has already updated changes nothing the second time. -/
namespace Sys2Proof.Proofs
open Sys2Proof Sys2Proof.Machine

/-! ### A response, a record and a replacement, each repeated -/

theorem respond_repeat (s : State) (r : Resp) : (s.respond r).respond r = s.respond r := by
  rw [respond_eq, respond_eq]
  cases s.port <;> rfl

theorem recordCause_repeat (p : Port) (c : Cause) (st : Word) :
    recordCause p c (recordCause p c st) = recordCause p c st := by
  cases h : statusIll p st with
  | true => rw [recordCause_kept h, recordCause_kept h]
  | false => exact recordCause_kept (statusIll_recordCause_same p c st h)

/-- An IllegalCommand raised again with the same cause changes nothing (60_exceptions.md R141). -/
theorem raiseIllegal_repeat (s : State) (c : Cause) : (s.raiseIllegal c).raiseIllegal c = s.raiseIllegal c := by
  have status := recordCause_repeat s.port c s.status
  rw [raiseIllegal_eq, raiseIllegal_eq]
  cases hp : s.port <;> simp_all [afterIllegal]

/-- A command changes nothing the second time if its effect on the state that it left is that state: a check that
failed fails there again, and otherwise the checks pass again. -/
theorem exec_repeat {i : Instr} {s t u v : State} {cs : List (Bool × Cause)} (h : exec i s = .next t)
    (meaning : exec i s = s.conclude cs u) (same : v = u)
    (again : firstFailing cs = none → exec i u = .next v := by exact fun pass => conclude_legal pass)
    (illegalAgain : ∀ c, firstFailing cs = some c →
      exec i (s.raiseIllegal c) = .next ((s.raiseIllegal c).raiseIllegal c) := by
        exact fun _ illegal => conclude_illegal illegal) : exec i t = .next t := by
  rw [meaning] at h
  obtain ⟨c, illegal, rfl⟩ | ⟨pass, rfl⟩ := conclude_cases h
  · rw [illegalAgain c illegal, raiseIllegal_repeat]
  · rw [again pass, same]

/-! ### Replacing `F[i]` twice -/

/-- Replacing an element by itself. -/
theorem set_getD_of_fixed {α : Type} {f : α → α} {l : List α} {i : Nat} (fixed : ∀ a, l[i]? = some a → f a = a)
    (d : α) : l.set i (f (l.getD i d)) = l := by
  by_cases hi : i < l.length
  · rw [List.getD_eq_getElem l d hi, fixed _ (List.getElem?_eq_getElem hi), List.set_getElem_self]
  · exact List.set_eq_of_length_le (Nat.le_of_not_lt hi)

/-- Replacing an element by its image under an idempotent function, twice. -/
theorem set_getD_repeat {α : Type} {f : α → α} (hf : ∀ a, f (f a) = f a) {l m : List α} {i : Nat} {d : α}
    (h : m = l.set i (f (l.getD i d))) : m.set i (f (m.getD i d)) = m := by
  refine set_getD_of_fixed (fun a ha => ?_) d
  rw [h, List.getElem?_set_self'] at ha
  obtain ⟨-, -, rfl⟩ := Option.map_eq_some_iff.1 ha
  exact hf _

section
variable {s t : State} {inst : Byte} {r : Resp}

theorem setDb_repeat {d : DbInst} (h : t = (s.setDb inst d).respond r) : (t.setDb inst d).respond r = t := by
  subst h
  have same : ((s.setDb inst d).respond r).setDb inst d = (s.setDb inst d).respond r :=
    congrArg (fun l => { (s.setDb inst d).respond r with db := l }) (List.set_set ..)
  rw [same, respond_repeat]

theorem setBiq_repeat {f : BiqInst → BiqInst} (hf : ∀ b, f (f b) = f b)
    (h : t = (s.setBiq inst (f (s.biqAt inst))).respond r) : (t.setBiq inst (f (t.biqAt inst))).respond r = t := by
  have same : t.setBiq inst (f (t.biqAt inst)) = t :=
    congrArg (fun l => { t with biq := l }) (set_getD_repeat hf (by rw [h]; rfl))
  rw [same, h, respond_repeat]

theorem setCf1_repeat {f : Cf1Inst → Cf1Inst} (hf : ∀ c, f (f c) = f c)
    (h : t = (s.setCf1 inst (f (s.cf1At inst))).respond r) : (t.setCf1 inst (f (t.cf1At inst))).respond r = t := by
  have same : t.setCf1 inst (f (t.cf1At inst)) = t :=
    congrArg (fun l => { t with cf1 := l }) (set_getD_repeat hf (by rw [h]; rfl))
  rw [same, h, respond_repeat]

theorem setCf2_repeat {f : Cf2Inst → Cf2Inst} (hf : ∀ c, f (f c) = f c)
    (h : t = (s.setCf2 inst (f (s.cf2At inst))).respond r) : (t.setCf2 inst (f (t.cf2At inst))).respond r = t := by
  have same : t.setCf2 inst (f (t.cf2At inst)) = t :=
    congrArg (fun l => { t with cf2 := l }) (set_getD_repeat hf (by rw [h]; rfl))
  rw [same, h, respond_repeat]

theorem setPidd_repeat {f : PiddInst → PiddInst} (hf : ∀ c, f (f c) = f c)
    (h : t = (s.setPidd inst (f (s.piddAt inst))).respond r) : (t.setPidd inst (f (t.piddAt inst))).respond r = t := by
  have same : t.setPidd inst (f (t.piddAt inst)) = t :=
    congrArg (fun l => { t with pidd := l }) (set_getD_repeat hf (by rw [h]; rfl))
  rw [same, h, respond_repeat]

theorem setPidt_repeat {f : PidtInst → PidtInst} (hf : ∀ c, f (f c) = f c)
    (h : t = (s.setPidt inst (f (s.pidtAt inst))).respond r) : (t.setPidt inst (f (t.pidtAt inst))).respond r = t := by
  have same : t.setPidt inst (f (t.pidtAt inst)) = t :=
    congrArg (fun l => { t with pidt := l }) (set_getD_repeat hf (by rw [h]; rfl))
  rw [same, h, respond_repeat]

end

/-! ### What a WREG writes -/

theorem section_write_repeat (v : Word) (c : Section) (r : SecReg) : (c.write v r).write v r = c.write v r := by
  cases r <;> rfl

theorem biq_write_repeat (v : Word) (b : BiqInst) (r : BiqReg) : (b.write v r).write v r = b.write v r := by
  cases r with
  | nsec | gain => rfl
  | sec j r =>
    exact congrArg (fun l => { b with secs := l })
      (set_getD_repeat (f := (Section.write · v r)) (section_write_repeat v · r) rfl)

theorem cf1_write_repeat (v : Word) (c : Cf1Inst) (r : Cf1Reg) : (c.write v r).write v r = c.write v r := by
  cases r <;> rfl

theorem cf2_write_repeat (v : Word) (c : Cf2Inst) (r : Cf2Reg) : (c.write v r).write v r = c.write v r := by
  cases r <;> rfl

theorem pidd_write_repeat (v : Word) (c : PiddInst) (r : PiddReg) : (c.write v r).write v r = c.write v r := by
  cases r <;> rfl

theorem pidt_write_repeat (v : Word) (c : PidtInst) (r : PidtReg) : (c.write v r).write v r = c.write v r := by
  cases r <;> rfl

/-- What a WREG does to `F[i]`: write the register that the index names, if it names one. -/
def writeNamed {ρ α : Type} (write : α → ρ → α) (reg : Option ρ) (a : α) : α := reg.elim a (write a)

theorem writeNamed_repeat {ρ α : Type} {write : α → ρ → α} (h : ∀ a r, write (write a r) r = write a r)
    (reg : Option ρ) (a : α) : writeNamed write reg (writeNamed write reg a) = writeNamed write reg a := by
  cases reg with
  | none => rfl
  | some r => exact h a r

/-! ### PIDD.INIT -/

/-- The number of a primitive picks nothing but a NaN's free bits (00_scope.md R12; log 6). -/
theorem fadd_eq_of_not_nan {k : Nat} {a b : Word} (h : isNaN (fadd k a b) = false) (j : Nat) :
    fadd j a b = fadd k a b := by
  unfold fadd at h ⊢
  split_ifs at h ⊢ <;> simp_all

theorem fmul_eq_of_not_nan {k : Nat} {a b : Word} (h : isNaN (fmul k a b) = false) (j : Nat) :
    fmul j a b = fmul k a b := by
  unfold fmul at h ⊢
  simp only [] at h ⊢
  split_ifs at h ⊢ <;> simp_all

/-- A sum that is no NaN has no NaN operand (00_scope.md R11). -/
theorem not_nan_of_fadd {k : Nat} {a b : Word} (h : isNaN (fadd k a b) = false) :
    isNaN a = false ∧ isNaN b = false := by
  constructor
  · by_contra nan
    rw [fadd_nan_left k a b (by simpa using nan), isNaN_drawNaN] at h
    cases h
  · by_contra nan
    rw [fadd_nan_right k a b (by simpa using nan), isNaN_drawNaN] at h
    cases h

/-- A controller whose K1 and K2 are no NaN is constructed again as it is (43_pid.md R115). -/
theorem constructed_repeat {k : Nat} {c : PiddInst} (h1 : isNaN (c.constructed k).k1 = false)
    (h2 : isNaN (c.constructed k).k2 = false) (j : Nat) : (c.constructed k).constructed j = c.constructed k := by
  have sum := (not_nan_of_fadd h1).1
  have prod : isNaN (fmul (k + 2) fTwo c.kd) = false := by simpa using (not_nan_of_fadd h2).2
  have k1 : fadd (j + 1) (fadd j c.kp c.ki) c.kd = fadd (k + 1) (fadd k c.kp c.ki) c.kd := by
    rw [fadd_eq_of_not_nan sum j, fadd_eq_of_not_nan h1 (j + 1)]
  have k2 : fsub (j + 3) (fneg c.kp) (fmul (j + 2) fTwo c.kd) = fsub (k + 3) (fneg c.kp) (fmul (k + 2) fTwo c.kd) := by
    rw [fmul_eq_of_not_nan prod (j + 2)]
    exact fadd_eq_of_not_nan h2 (j + 3)
  simp only [PiddInst.constructed, k1, k2]

/-- PIDD.INIT repeated, where it made no NaN: K1, K2 and K3 come out the same. -/
theorem piddInit_repeat {n idx : Byte} {s t : State} (h : exec (.piddInit n idx) s = .next t)
    (noNaN : ∀ c, t.pidd[n.toNat]? = some c → isNaN c.k1 = false ∧ isNaN c.k2 = false) :
    ∃ d : Nat, exec (.piddInit n idx) t = .next { t with draws := d } := by
  obtain ⟨c, illegal, rfl⟩ | ⟨pass, ht⟩ := conclude_cases h
  · exact ⟨s.draws, (conclude_illegal illegal).trans (congrArg _ (raiseIllegal_repeat s c))⟩
  · have checks : firstFailing (t.opChecks .r t.params.nPidd n idx) = none := by rw [ht]; exact pass
    have pidd : t.pidd = s.pidd.set n.toNat ((s.piddAt n).constructed s.draws) := by rw [ht]; rfl
    have answered : t.respond (Resp.ofData 0 0) = t := by rw [ht, respond_repeat]
    have fixed : t.pidd.set n.toNat ((t.piddAt n).constructed t.draws) = t.pidd := by
      refine set_getD_of_fixed (f := PiddInst.constructed t.draws) (fun c hc => ?_) PiddInst.zero
      have numbers := noNaN c hc
      rw [pidd, List.getElem?_set_self'] at hc
      obtain ⟨_, -, rfl⟩ := Option.map_eq_some_iff.1 hc
      exact constructed_repeat numbers.1 numbers.2 _
    have same : t.setPidd n ((t.piddAt n).constructed t.draws) = t := congrArg (fun l => { t with pidd := l }) fixed
    refine ⟨t.draws + 4, (conclude_legal checks).trans (congrArg _ ?_)⟩
    rw [same]
    exact congrArg (fun u => { u with draws := t.draws + 4 }) answered

/-- The commands that are idempotent in every register (20_memory.md R52); PIDD.INIT is one where it makes no NaN. -/
def Idempotent : Instr → Prop
  | .dbRead _ _ | .dbWrite _ _ _ _ | .biqSample _ _ _ | .cf1SampleAcc _ _ _ | .cf1SampleGyr _ _ _
  | .cf2SampleAcc _ _ _ | .cf2SampleGyr _ _ _ | .piddInit _ _ | .piddCalc _ _ _ | .pidtCalc _ _ _ _ => False
  | _ => True

/-- An idempotent command changes nothing the second time, legal or not. -/
theorem exec_repeat_of_idempotent {i : Instr} {s t : State} (h : exec i s = .next t) (idempotent : Idempotent i) :
    exec i t = .next t := by
  cases i with
  | dbRead | dbWrite | biqSample | cf1SampleAcc | cf1SampleGyr | cf2SampleAcc | cf2SampleGyr | piddInit | piddCalc
  | pidtCalc => exact idempotent.elim
  | sysNop | sysStatR | sysParamR | dbRreg | biqRreg | cf1Rreg | cf2Rreg | piddRreg | pidtRreg =>
    exact exec_repeat h rfl (respond_repeat s _)
  | sysStatC => exact exec_repeat h rfl (respond_repeat { s with status := 0 } _)
  | dbInit => exact exec_repeat h rfl (setDb_repeat rfl)
  | biqInit =>
    have cleared (b : BiqInst) : (b.secs.map Section.cleared).map Section.cleared = b.secs.map Section.cleared := by
      rw [List.map_map]; rfl
    exact exec_repeat h rfl
      (setBiq_repeat (f := fun b => { b with secs := b.secs.map Section.cleared }) (fun b => by simp [cleared]) rfl)
  | biqWreg inst idx op0 =>
    exact exec_repeat h rfl
      (setBiq_repeat (f := writeNamed (·.write op0) (biqReg s.params.biqMaxSec idx))
        (writeNamed_repeat (biq_write_repeat op0) _) rfl)
  | cf1Init =>
    exact exec_repeat h rfl
      (setCf1_repeat (f := fun c => { c with xprev := 0, yprev := 0 }) (fun _ => rfl) rfl)
  | cf1Wreg inst idx op0 =>
    exact exec_repeat h rfl
      (setCf1_repeat (f := writeNamed (·.write op0) (cf1Reg idx)) (writeNamed_repeat (cf1_write_repeat op0) _) rfl)
  | cf2Init =>
    exact exec_repeat h rfl
      (setCf2_repeat (f := fun c => { c with x1 := 0, x2 := 0, y1 := 0, y2 := 0 }) (fun _ => rfl) rfl)
  | cf2Wreg inst idx op0 =>
    exact exec_repeat h rfl
      (setCf2_repeat (f := writeNamed (·.write op0) (cf2Reg idx)) (writeNamed_repeat (cf2_write_repeat op0) _) rfl)
  | piddWreg inst idx op0 =>
    exact exec_repeat h rfl
      (setPidd_repeat (f := writeNamed (·.write op0) (piddReg idx)) (writeNamed_repeat (pidd_write_repeat op0) _) rfl)
  | pidtInit =>
    exact exec_repeat h rfl
      (setPidt_repeat (f := fun c => { c with integ := 0, eprev := 0 }) (fun _ => rfl) rfl)
  | pidtWreg inst idx op0 =>
    exact exec_repeat h rfl
      (setPidt_repeat (f := writeNamed (·.write op0) (pidtReg idx)) (writeNamed_repeat (pidt_write_repeat op0) _) rfl)

/-- Settles O20: `exec_repeat_of_idempotent` for the commands that draw no free value, `piddInit_repeat` for
PIDD.INIT. -/
theorem repeatedCommandsAreIdempotent : Obligations.RepeatedCommandsAreIdempotent :=
  ⟨fun i _ _ h idempotent => exec_repeat_of_idempotent h (by cases i <;> exact idempotent),
    fun _ _ _ _ h noNaN => piddInit_repeat h noNaN⟩

end Sys2Proof.Proofs
end

section
/-! SUPPORT. The encoding (30_encoding.md): what decoding answers for a word by its fields, the command word as the packing
of its fields, and the statements about both directions, the assembled lines and the step of a decoded command. -/
namespace Sys2Proof.Proofs
open Sys2Proof Sys2Proof.Machine

/-! ### Decoding by the fields of the word (30_encoding.md R61, R64, R65, R69) -/

section
variable {fam op : BitVec 4} {inst idx : Byte} {q : Request}

/-- Words with the fields that the opcode map gives a command decode to that command (30_encoding.md R65). -/
theorem decode_of_selectOp {i : Instr} (fields : Laws.hasFields q.cmd fam op inst idx)
    (select : selectOp fam op inst idx q.op0 q.op1 = some i) : decode q = .ok i := by
  obtain ⟨-, ⟨fam_lt, -⟩, -⟩ := encode_of_selectOp select
  obtain ⟨rfl, rfl, rfl, rfl, rsv⟩ := fields
  simp [decode, rsv, Nat.not_le.2 fam_lt, select]

theorem decode_of_rsv_ne_zero (rsv : rsvOf q.cmd ≠ 0) : decode q = .error .rsvdBits := if_pos rsv

theorem decode_of_reserved_fam (fields : Laws.hasFields q.cmd fam op inst idx) (reserved : 7 ≤ fam.toNat) :
    decode q = .error .rsvdFam := by
  obtain ⟨rfl, -, -, -, rsv⟩ := fields
  simp [decode, rsv, reserved]

theorem decode_of_selectOp_eq_none (fields : Laws.hasFields q.cmd fam op inst idx) (fam_lt : fam.toNat < 7)
    (select : selectOp fam op inst idx q.op0 q.op1 = none) : decode q = .error .badOp := by
  obtain ⟨rfl, rfl, rfl, rfl, rsv⟩ := fields
  simp [decode, rsv, Nat.not_le.2 fam_lt, select]

/-- The four fields and the zero reserved bits are the whole command word (30_encoding.md R61). -/
theorem eq_cmdWord_of_hasFields {w : Word} (h : Laws.hasFields w fam op inst idx) : w = cmdWord fam op inst idx := by
  obtain ⟨rfl, rfl, rfl, rfl, rsv⟩ := h
  have join {hi lo : Nat} (m n : Nat) (h : hi = lo + n) :
      w.extractLsb' hi m ++ w.extractLsb' lo n = w.extractLsb' lo (m + n) :=
    BitVec.extractLsb'_append_extractLsb'_eq_extractLsb' h
  calc w = w.extractLsb' 0 32 := BitVec.extractLsb'_eq_self.symm
    _ = cmdWord (famOf w) (opOf w) (instOf w) (idxOf w) := by
      rw [cmdWord, ← rsv, famOf, opOf, instOf, idxOf, rsvOf, join 4 4 rfl, join 8 8 rfl, join 16 8 rfl, join 24 8 rfl]

end

/-! ### The statements -/

/-- Settles O1: `decode_encode`, by cases on the command. -/
theorem decodeOfEncodeIsTheCommand : Obligations.DecodeOfEncodeIsTheCommand := decode_encode

/-- Settles O2: by `encode_of_decode` the word and the command's encoding have the same fields, and the fields are the
whole word. -/
theorem decodedWordIsTheEncoding : Obligations.DecodedWordIsTheEncoding := by
  intro q i decodes
  obtain ⟨rsv, encoded, -, -⟩ := encode_of_decode decodes
  have decoded : Laws.hasFields q.cmd (famOf q.cmd) (opOf q.cmd) (instOf q.cmd) (idxOf q.cmd) :=
    ⟨rfl, rfl, rfl, rfl, rsv⟩
  exact (eq_cmdWord_of_hasFields encoded).trans (eq_cmdWord_of_hasFields decoded).symm

/-- Settles O3: each line of the table by running the assembler on it. -/
theorem assembledLinesOfR77 : Obligations.AssembledLinesOfR77 :=
  ⟨rfl, rfl, rfl, rfl, rfl, rfl, rfl, rfl, rfl, rfl, rfl, rfl, rfl, rfl⟩

/-- Settles O4: `decode_of_selectOp` for the words that a command has, with FAM, OP, INST and IDX as they stand in the
word, and one lemma per check for those that are refused. -/
theorem decodedWordsOfEveryFamily : Obligations.DecodedWordsOfEveryFamily :=
  ⟨decode_of_selectOp (Laws.hasFields_cmdWord 0x0 0x3 0x00 0x06) rfl,
    decode_of_selectOp (Laws.hasFields_cmdWord 0x1 0x4 0x02 0x00) rfl,
    decode_of_selectOp (Laws.hasFields_cmdWord 0x2 0x1 0x00 0x14) rfl,
    decode_of_selectOp (Laws.hasFields_cmdWord 0x3 0x4 0x01 0x00) rfl,
    decode_of_selectOp (Laws.hasFields_cmdWord 0x4 0x2 0xFF 0x04) rfl,
    decode_of_selectOp (Laws.hasFields_cmdWord 0x5 0x3 0x00 0x00) rfl,
    decode_of_selectOp (Laws.hasFields_cmdWord 0x6 0x3 0x00 0x00) rfl,
    decode_of_rsv_ne_zero (by decide),
    decode_of_reserved_fam (Laws.hasFields_cmdWord 0x7 0x0 0x00 0x00) (by decide),
    decode_of_selectOp_eq_none (Laws.hasFields_cmdWord 0x1 0x1 0x00 0x00) (by decide) rfl⟩

/-- Settles O5: the event is taken off, its word decodes, and what is left is the command on the port in service. -/
theorem stepRunsTheDecodedCommand : Obligations.StepRunsTheDecodedCommand := by
  intro s p q rest i waits decodes
  simp only [step, nextEvent_cons waits, decodes, State.serve]

end Sys2Proof.Proofs
end

section
/-! SUPPORT. The DB commands (40_double_buffer.md): the whole effect of each where it is legal, what its response word
says, and the four statements about them. -/
namespace Sys2Proof.Proofs
open Sys2Proof Sys2Proof.Machine

/-! ### Words and responses -/

/-- The FAM and OP byte alone picks the command (30_encoding.md R61, R65). -/
theorem decodesAt_of_selectOp {code : Byte} {command : Byte → Byte → Word → Word → Instr}
    (select : ∀ inst idx op0 op1,
      selectOp (code.extractLsb' 4 4) (code.extractLsb' 0 4) inst idx op0 op1 = some (command inst idx op0 op1)) :
    decodesAt code command :=
  fun inst idx op0 op1 => decode_of_selectOp (Laws.hasFields_bytes code inst idx) (select inst idx op0 op1)

/-- On the R port a response changes nothing but that port's response. -/
theorem respond_on_r {s : State} (port : s.port = .r) (r : Resp) : s.respond r = { s with rResp := r } := by
  simp [respond_eq, port]

/-- FLAGS of a legal command: NEW is bit 8 and SLOT is bit 9 (30_encoding.md R63). -/
theorem flagsWord_legal (fresh slot : Bool) :
    flagsWord false 0 fresh slot = (if slot then 0x200#32 else 0#32) + (if fresh then 0x100#32 else 0#32) := by
  cases fresh <;> cases slot <;> decide

/-- CTRL: NEW is bit 1 and RSEL is bit 0 (10_state.md R25). -/
theorem ctrlWord_eq (d : DbInst) :
    ctrlWord d = (if d.fresh then 2#32 else 0#32) + (if d.rsel then 1#32 else 0#32) := by
  unfold ctrlWord
  cases d.fresh <;> cases d.rsel <;> decide

/-! ### Instances -/

theorem dbAt_of_getElem? {s : State} {n : Byte} {d : DbInst} (h : s.db[n.toNat]? = some d) : s.dbAt n = d := by
  rw [State.dbAt, List.getD_eq_getElem?_getD, h]
  rfl

/-! ### The commands on a state that makes them legal -/

/-- What a DB.READ answers: NEW and SLOT in FLAGS, and the words of the readable slot (40_double_buffer.md R82). -/
def readAnswer (m : Params) (d : DbInst) : Resp where
  flags := flagsWord false 0 d.fresh d.rsel
  d0 := d.readable.getD 0 0
  d1 := if m.dbSlotWords = 2 then d.readable.getD 1 0 else 0

section
variable {s : State} {n : Byte} (count : n.toNat < s.params.nDb)
include count

theorem exec_dbInit (port : s.port = .r) :
    exec (.dbInit n 0) s =
      .next { s with db := s.db.set n.toNat (DbInst.zero s.params.dbSlotWords), rResp := Resp.ofData 0 0 } :=
  (conclude_legal (opChecks_pass.2 ⟨port, count, rfl⟩)).trans (congrArg _ (respond_on_r (s := s.setDb n _) port _))

theorem exec_dbRreg (port : s.port = .r) :
    exec (.dbRreg n 0) s = .next { s with rResp := Resp.ofData (ctrlWord (s.dbAt n)) 0 } :=
  (conclude_legal (opChecks_pass.2 ⟨port, count, rfl⟩)).trans (congrArg _ (respond_on_r port _))

theorem exec_dbRead (port : s.port = .r) :
    exec (.dbRead n 0) s =
      .next { s with
        db := s.db.set n.toNat { s.dbAt n with fresh := false }, rResp := readAnswer s.params (s.dbAt n) } :=
  (conclude_legal (opChecks_pass.2 ⟨port, count, rfl⟩)).trans (congrArg _ (respond_on_r (s := s.setDb n _) port _))

theorem exec_dbWrite (port : s.port = .w) (op0 op1 : Word) :
    exec (.dbWrite n 0 op0 op1) s =
      .next { s with
        db := s.db.set n.toNat ((s.dbAt n).publish ([op0, op1].take s.params.dbSlotWords))
        wResp := Resp.ofData 0 0 } :=
  (conclude_legal (opChecks_pass.2 ⟨port, count, rfl⟩)).trans (congrArg _ (respond_on_w (s := s.setDb n _) port _))

end

/-! ### The statements about single commands -/

/-- Settles O25: `exec_dbInit`, on `DbInst.zero` written out. -/
theorem dbInitEmptiesTheBuffer : Obligations.DbInitEmptiesTheBuffer := by
  refine ⟨decodesAt_of_selectOp fun _ _ _ _ => rfl, fun _ _ => refusesIllegal_all _, fun s i port count => ?_⟩
  rw [exec_dbInit count port, ofData_eq]
  rfl

/-- Settles O26: `exec_dbRreg`, with the bits of CTRL by `ctrlWord_eq`. -/
theorem dbRregAnswersCtrl : Obligations.DbRregAnswersCtrl := by
  refine ⟨decodesAt_of_selectOp fun _ _ _ _ => rfl, fun _ _ => refusesIllegal_all _, fun s i d port count held => ?_⟩
  rw [exec_dbRreg count port, dbAt_of_getElem? held, ofData_eq, ctrlWord_eq]

/-- Settles O27: `exec_dbRead`, with the bits of FLAGS by `flagsWord_legal`. -/
theorem dbReadAnswersTheReadableSlot : Obligations.DbReadAnswersTheReadableSlot := by
  refine ⟨decodesAt_of_selectOp fun _ _ _ _ => rfl, fun _ _ => refusesIllegal_all _, fun s i d port count held => ?_⟩
  rw [exec_dbRead count port, dbAt_of_getElem? held, readAnswer, flagsWord_legal]
  rfl

/-- Settles O28: `exec_dbWrite`; the payload is as many of the two operand words as a slot has. -/
theorem dbWritePublishesTheOtherSlot : Obligations.DbWritePublishesTheOtherSlot := by
  refine ⟨decodesAt_of_selectOp fun _ _ _ _ => rfl, fun _ _ _ _ => refusesIllegal_all _,
    fun s i d op0 op1 payload port count held size => ?_⟩
  have words : [op0, op1].take s.params.dbSlotWords = payload := by
    obtain ⟨two, rfl⟩ | ⟨one, rfl⟩ := size
    · rw [two]; rfl
    · rw [one]; rfl
  rw [exec_dbWrite count port, dbAt_of_getElem? held, words, ofData_eq]
  rfl

end Sys2Proof.Proofs
end

section
/-! SUPPORT. Double-buffer traffic (40_double_buffer.md R84 to R87): what an event can do to `DB[n]`, said once
(`bufferEffect_afterEvent`), what a row of events then makes of it, and the statements about DB.READs among other
events. -/
namespace Sys2Proof.Proofs
open Sys2Proof Sys2Proof.Machine

/-! ### Events as steps -/

/-- The effect of an event is the step that takes it. -/
theorem step_offer (s : State) (e : Event) : step (s.offer e) = .next (afterEvent s e) := step_eq_afterEvent rfl

theorem afterEvent_of_exec {s t : State} {p : Port} {q : Request} {i : Instr} (decodes : decode q = .ok i)
    (h : exec i { s with port := p } = .next t) : afterEvent s (.command p q) = t := by
  have taken := stepRunsTheDecodedCommand (s.offer (.command p q)) p q s.inputs i rfl decodes
  exact Host.Outcome.next.inj ((step_offer s _).symm.trans (taken.trans h))

theorem params_afterEvent (s : State) (e : Event) : (afterEvent s e).params = s.params := by
  obtain ⟨t, h, -, params, -⟩ := everyStepGoesOn (s.offer e)
  rw [step_offer, Host.Outcome.next.injEq] at h
  rw [h, params, State.offer_params]

theorem fits_afterEvent {s : State} (hs : Fits s) (e : Event) : Fits (afterEvent s e) :=
  fits_of_step (step_offer s e) (hs.withInputs (e :: s.inputs))

theorem params_foldl_afterEvent (evs : List Event) (s : State) : (evs.foldl afterEvent s).params = s.params := by
  induction evs generalizing s with
  | nil => rfl
  | cons e evs ih => exact (ih _).trans (params_afterEvent s e)

/-- Events lead from states that a block can be in to such states. -/
theorem fits_foldl_afterEvent {s : State} (hs : Fits s) (evs : List Event) : Fits (evs.foldl afterEvent s) := by
  induction evs generalizing s with
  | nil => exact hs
  | cons e evs ih => exact ih (fits_afterEvent hs e)

/-- As many steps as `evs` has events apply their effects in order and leave the events behind them waiting. -/
theorem run_append (evs rest : List Event) (s : State) (h : s.inputs = evs ++ rest) :
    Host.Core.run core evs.length s = .next (evs.foldl afterEvent { s with inputs := rest } : State) := by
  induction evs generalizing s with
  | nil => cases s; cases h; rfl
  | cons e evs ih =>
    have taken : { afterEvent { s with inputs := evs ++ rest } e with inputs := rest } =
        afterEvent { s with inputs := rest } e := (afterEvent_inputs { s with inputs := evs ++ rest } e rest).symm
    calc Host.Core.run core (evs.length + 1) s
        = Host.Core.run core evs.length (afterEvent { s with inputs := evs ++ rest } e) :=
          run_succ _ (step_eq_afterEvent h)
      _ = .next (evs.foldl afterEvent { afterEvent { s with inputs := evs ++ rest } e with inputs := rest }) :=
          ih _ (inputs_afterEvent _ e)
      _ = .next ((e :: evs).foldl afterEvent { s with inputs := rest }) := by rw [taken]; rfl

theorem run_pair (s : State) (e e' : Event) :
    Host.Core.run core 2 { s with inputs := [e, e'] } =
      .next (afterEvent (afterEvent { s with inputs := [] } e) e' : State) :=
  run_append [e, e'] [] _ rfl

/-! ### DB commands as events -/

section
variable {s : State} {n : Byte} (fits : Fits s) (count : n.toNat < s.params.nDb)
include fits count

theorem Fits.holdsDb : n.toNat < s.db.length := fits.dbCount.symm ▸ count

theorem afterEvent_dbInit :
    (afterEvent s (.command .r (encode (.dbInit n 0)))).db[n.toNat]? = some (DbInst.zero s.params.dbSlotWords) := by
  rw [afterEvent_of_exec (decode_encode _) (exec_dbInit (s := { s with port := .r }) count rfl)]
  exact List.getElem?_set_self (fits.holdsDb count)

theorem afterEvent_dbRead :
    (afterEvent s (.command .r (encode (.dbRead n 0)))).db[n.toNat]? = some { s.dbAt n with fresh := false } ∧
      (afterEvent s (.command .r (encode (.dbRead n 0)))).rResp = readAnswer s.params (s.dbAt n) := by
  rw [afterEvent_of_exec (decode_encode _) (exec_dbRead (s := { s with port := .r }) count rfl)]
  exact ⟨List.getElem?_set_self (fits.holdsDb count), rfl⟩

theorem afterEvent_dbWrite (op0 op1 : Word) :
    (afterEvent s (.command .w (encode (.dbWrite n 0 op0 op1)))).db[n.toNat]? =
        some ((s.dbAt n).publish ([op0, op1].take s.params.dbSlotWords)) ∧
      (afterEvent s (.command .w (encode (.dbWrite n 0 op0 op1)))).rResp = s.rResp := by
  rw [afterEvent_of_exec (decode_encode _) (exec_dbWrite (s := { s with port := .w }) count rfl op0 op1)]
  exact ⟨List.getElem?_set_self (fits.holdsDb count), rfl⟩

end

/-! ### What an event does to a buffer -/

/-- A legal command reads, writes or replaces `DB[n]` if it names `DB[n]` and has the OP for it. -/
theorem traffic_of_decode {m : Params} {n : Byte} {p : Port} {q : Request} {i : Instr} (decodes : decode q = .ok i)
    (legal : illegalCause m p q = none) :
    (Event.command p q).readsDb m n = (decide (namedInst i = (1, n)) && opOf (encode i).cmd == 3) ∧
    (Event.command p q).writesDb m n = (decide (namedInst i = (1, n)) && opOf (encode i).cmd == 4) ∧
    (Event.command p q).replacesDb m n =
      (decide (namedInst i = (1, n)) && (opOf (encode i).cmd == 0 || opOf (encode i).cmd == 4)) := by
  obtain ⟨-, ⟨fam, op, inst, -⟩, -⟩ := encode_of_decode decodes
  have named : decide (namedInst i = (1, n)) = (instOf q.cmd == n && famOf q.cmd == 1) := by
    rw [← fam, ← inst, Bool.eq_iff_iff, decide_eq_true_iff, Prod.ext_iff, ← instrFamily_eq, ← BitVec.toNat_inj,
      ← instrTarget_eq, and_comm]
    simp [instrTarget, instrFamily, ← BitVec.toNat_inj]
  rw [named, op]
  simp [Event.readsDb, Event.writesDb, Event.replacesDb, legal]

/-- What an event can do to the buffer `d` that stands in `DB[n]`: empty it, as a reset or a DB.INIT does, publish a
payload, clear NEW for a DB.READ, or leave it as it is (40_double_buffer.md R80, R82, R83). -/
inductive BufferEffect (m : Params) (n : Byte) (e : Event) (d : DbInst) : DbInst → Prop
  | emptied (replaces : e.replacesDb m n = true) (noWrite : e.writesDb m n = false) :
      BufferEffect m n e d (DbInst.zero m.dbSlotWords)
  | published (payload : List Word) (replaces : e.replacesDb m n = true) (writes : e.writesDb m n = true) :
      BufferEffect m n e d (d.publish payload)
  | read (keeps : e.replacesDb m n = false) (reads : e.readsDb m n = true) : BufferEffect m n e d { d with fresh := false }
  | kept (keeps : e.replacesDb m n = false) (noRead : e.readsDb m n = false) : BufferEffect m n e d d

/-- A block reset empties every buffer (70_reset_and_hazards.md R156). -/
theorem dbAt_afterReset (s : State) (n : Byte) (rDiscarded wDiscarded : Bool) :
    (afterEvent s (.reset rDiscarded wDiscarded)).dbAt n = DbInst.zero s.params.dbSlotWords := by
  rw [State.dbAt, afterEvent, State.blockReset_db, State.blockReset_params, List.getD_eq_getElem?_getD,
    List.getElem?_getD_replicate_default_eq]

/-- An illegal command leaves every buffer as it is (60_exceptions.md R140). -/
theorem bufferEffect_of_illegal {m : Params} {n : Byte} {p : Port} {q : Request} {c : Cause}
    (illegal : illegalCause m p q = some c) (d : DbInst) : BufferEffect m n (.command p q) d d :=
  .kept (by simp [Event.replacesDb, illegal]) (by simp [Event.readsDb, illegal])

/-- A command that does not name `DB[n]` leaves it as it is. -/
theorem dbAt_of_not_named {i : Instr} {s t : State} {n : Byte} (h : exec i s = .next t)
    (other : namedInst i ≠ (1, n)) : t.dbAt n = s.dbAt n := by
  have effect := effect_of_exec h
  have same : t.db[n.toNat]? = s.db[n.toNat]? := by
    refine effect.sameInst_other (fam := 1) (by decide) (not_and_or.1 fun ⟨fam, inst⟩ => other ?_)
    exact Prod.ext fam.symm (BitVec.eq_of_toNat_eq inst.symm)
  exact getD_congr same (by rw [effect.frame.1])

theorem opOf_of_hasFields {w : Word} {fam op : BitVec 4} {inst idx : Byte} (h : Laws.hasFields w fam op inst idx) :
    opOf w = op := by
  obtain ⟨-, op, -⟩ := h
  exact op

/-- A legal DB command has the effect on `DB[n]` that its rule gives (60_exceptions.md R139). -/
theorem dbAt_of_legal {s t u : State} {n idx : Byte} {i : Instr} {port : Port} {op : BitVec 4} {d : DbInst}
    (fields : Laws.hasFields (encode i).cmd 1 op n idx) (listed : listedOnlyOn port 1 op = true)
    (zero : needsIdxZero 1 op = true) (legal : illegalCause s.params s.port (encode i) = none)
    (held : n.toNat < s.db.length) (h : exec i s = .next t)
    (meaning : exec i s = s.conclude (s.opChecks port s.params.nDb n idx) u) (db : u.db = s.db.set n.toNat d) :
    t.dbAt n = d := by
  rw [meaning, conclude_legal ((opChecks_eq_illegalCause (n := s.params.nDb) s fields listed zero rfl).trans legal)] at h
  cases h
  exact dbAt_of_getElem? (by rw [db, List.getElem?_set_self held])

/-- The effect of a legal command on `DB[n]`, by its opcode where it names `DB[n]`. -/
theorem bufferEffect_of_exec {s t : State} {n : Byte} {q : Request} {i : Instr} (decodes : decode q = .ok i)
    (legal : illegalCause s.params s.port q = none) (held : n.toNat < s.db.length) (h : exec i s = .next t) :
    BufferEffect s.params n (.command s.port q) (s.dbAt n) (t.dbAt n) := by
  obtain ⟨reads, writes, replaces⟩ := traffic_of_decode (n := n) decodes legal
  rw [← illegalCause_encode decodes] at legal
  by_cases named : namedInst i = (1, n)
  case neg =>
    rw [dbAt_of_not_named h named]
    exact .kept (by simp [replaces, named]) (by simp [reads, named])
  case pos =>
    simp only [named, decide_true, Bool.true_and] at reads writes replaces
    cases i with
    | dbInit _ idx =>
      cases named
      have fields := Laws.EncodedFields.dbInit n idx
      rw [opOf_of_hasFields fields] at writes replaces
      rw [dbAt_of_legal (port := .r) fields rfl rfl legal held h rfl rfl]
      exact .emptied replaces writes
    | dbRreg _ idx =>
      cases named
      rw [opOf_of_hasFields (Laws.EncodedFields.dbRreg n idx)] at reads replaces
      obtain ⟨c, -, rfl⟩ | ⟨-, rfl⟩ := conclude_cases h
      · exact .kept replaces reads
      · exact .kept replaces reads
    | dbRead _ idx =>
      cases named
      have fields := Laws.EncodedFields.dbRead n idx
      rw [opOf_of_hasFields fields] at reads replaces
      rw [dbAt_of_legal (port := .r) fields rfl rfl legal held h rfl rfl]
      exact .read replaces reads
    | dbWrite _ idx op0 op1 =>
      cases named
      have fields := Laws.EncodedFields.dbWrite n idx op0 op1
      rw [opOf_of_hasFields fields] at writes replaces
      rw [dbAt_of_legal (port := .w) fields rfl rfl legal held h rfl rfl]
      exact .published _ replaces writes
    | _ => simp [namedInst] at named

/-- The effect of an event on `DB[n]`. -/
theorem bufferEffect_afterEvent {s : State} {n : Byte} (held : n.toNat < s.db.length) (e : Event) :
    BufferEffect s.params n e (s.dbAt n) ((afterEvent s e).dbAt n) := by
  cases e with
  | reset rDiscarded wDiscarded =>
    rw [dbAt_afterReset]
    exact .emptied rfl rfl
  | command p q =>
    cases legal : illegalCause s.params p q with
    | some c =>
      have raised : afterEvent s (.command p q) = afterIllegal { s with port := p } c := by simp only [afterEvent, legal]
      rw [raised]
      exact bufferEffect_of_illegal legal _
    | none =>
      cases decodes : decode q with
      | error c => exact absurd ((illegalCause_of_decode_error decodes _ p).symm.trans legal) (Option.some_ne_none c)
      | ok i =>
        obtain ⟨t, h⟩ := exec_next i { s with port := p }
        rw [afterEvent_of_exec decodes h]
        exact bufferEffect_of_exec (s := { s with port := p }) decodes legal held h

/-! ### What a row of events does to a buffer -/

/-- The events of a list, one after the other, can take the buffer `DB[n]` from one value to another. -/
inductive BufferRun (m : Params) (n : Byte) : List Event → DbInst → DbInst → Prop
  | nil {d : DbInst} : BufferRun m n [] d d
  | cons {e : Event} {evs : List Event} {d d' d'' : DbInst} (effect : BufferEffect m n e d d')
      (run : BufferRun m n evs d' d'') : BufferRun m n (e :: evs) d d''

/-- In every state that a block can be in, events do to `DB[n]` what `BufferRun` says. -/
theorem bufferRun_foldl {s : State} {n : Byte} (fits : Fits s) (count : n.toNat < s.params.nDb) (evs : List Event) :
    BufferRun s.params n evs (s.dbAt n) ((evs.foldl afterEvent s).dbAt n) := by
  induction evs generalizing s with
  | nil => exact .nil
  | cons e evs ih =>
    have rest := ih (fits_afterEvent fits e) (by rwa [params_afterEvent])
    rw [params_afterEvent] at rest
    exact .cons (bufferEffect_afterEvent (fits.holdsDb count) e) rest

/-- Events that do not replace a buffer's contents leave its readable slot whole, and NEW set until one of them reads it
(40_double_buffer.md R85, R87). -/
theorem BufferRun.keeps_payload {m : Params} {n : Byte} {evs : List Event} {d d' : DbInst} (h : BufferRun m n evs d d')
    (keep : ∀ e ∈ evs, e.replacesDb m n = false) :
    d'.readable = d.readable ∧ d'.fresh = (d.fresh && !evs.any (·.readsDb m n)) := by
  induction h with
  | nil => simp
  | cons effect run ih =>
    obtain ⟨keeps, later⟩ := List.forall_mem_cons.1 keep
    obtain ⟨readable, fresh⟩ := ih later
    rw [readable, fresh]
    cases effect with
    | emptied replaces | published _ replaces => exact absurd (replaces.symm.trans keeps) (by decide)
    | read _ reads => simp [reads, DbInst.readable]
    | kept _ noRead => simp [noRead]

/-- Events that publish nothing leave an empty buffer empty (40_double_buffer.md R84). -/
theorem BufferRun.stays_empty {m : Params} {n : Byte} {evs : List Event} {d d' : DbInst} (h : BufferRun m n evs d d')
    (noWrite : ∀ e ∈ evs, e.writesDb m n = false) (empty : d = DbInst.zero m.dbSlotWords) :
    d' = DbInst.zero m.dbSlotWords := by
  induction h with
  | nil => exact empty
  | cons effect run ih =>
    obtain ⟨quiet, later⟩ := List.forall_mem_cons.1 noWrite
    refine ih later ?_
    cases effect with
    | emptied => rfl
    | published _ _ writes => exact absurd (writes.symm.trans quiet) (by decide)
    | read => rw [empty]; rfl
    | kept => exact empty

/-- A run over a first event, a row of others and a DB.READ: the read answers what the row made of the buffer that the
first event left. -/
theorem run_then_dbRead {s : State} {n : Byte} {first : Event} {evs rest : List Event} (fits : Fits s)
    (count : n.toNat < s.params.nDb)
    (inputs : s.inputs = first :: (evs ++ .command .r (encode (.dbRead n 0)) :: rest)) :
    ∃ (t : State) (d : DbInst), Host.Core.run core (evs.length + 2) s = .next t ∧ t.inputs = rest ∧
      BufferRun s.params n evs ((afterEvent { s with inputs := rest } first).dbAt n) d ∧
      t.rResp = readAnswer s.params d := by
  have after := fits.withInputs rest
  have run := run_append (first :: evs ++ [.command .r (encode (.dbRead n 0))]) rest s (by simpa using inputs)
  have between := bufferRun_foldl (n := n) (fits_afterEvent after first) (by rwa [params_afterEvent]) evs
  have read := afterEvent_dbRead (n := n) (fits_foldl_afterEvent after (first :: evs)) (by rwa [params_foldl_afterEvent])
  rw [params_afterEvent] at between
  rw [params_foldl_afterEvent] at read
  rw [List.length_append, List.foldl_append] at run
  exact ⟨_, _, run, (inputs_foldl_afterEvent [_] _).trans (inputs_foldl_afterEvent (first :: evs) _), between, read.2⟩

end Sys2Proof.Proofs
end

section
/-! SUPPORT. The statements about DB.READs and DB.WRITEs in a row of events (40_double_buffer.md R84 to R87), from
`BufferRun` and the effects of the two commands. -/
namespace Sys2Proof.Proofs
open Sys2Proof Sys2Proof.Machine

/-! ### The answer of a DB.READ -/

section
variable (m : Params) (d : DbInst)

/-- The FLAGS of the answer: ILL = 0, the old NEW, and the slot that was read (30_encoding.md R63). -/
theorem readAnswer_flags :
    (readAnswer m d).ill = false ∧ (readAnswer m d).fresh = d.fresh ∧ (readAnswer m d).slot = d.rsel := by
  have bits : ∀ fresh slot, (flagsWord false 0 fresh slot).getLsbD 0 = false ∧
      (flagsWord false 0 fresh slot).getLsbD 8 = fresh ∧ (flagsWord false 0 fresh slot).getLsbD 9 = slot := by decide
  exact bits d.fresh d.rsel

/-- The answer from a buffer with a payload in its readable slot has the words of the payload. -/
theorem readAnswer_payload {op0 op1 : Word} (legal : m.legal = true) (h : d.readable = [op0, op1].take m.dbSlotWords) :
    (readAnswer m d).d0 = op0 ∧ (readAnswer m d).d1 = if m.dbSlotWords = 2 then op1 else 0 := by
  have one : 1 ≤ m.dbSlotWords := by
    simp only [Params.legal, Bool.and_eq_true, decide_eq_true_eq] at legal
    exact legal.1.2
  have two := slotWords_le_two legal
  simp only [readAnswer, h]
  interval_cases m.dbSlotWords <;> exact ⟨rfl, rfl⟩

/-- The answer from an empty buffer is all-zero (40_double_buffer.md R84). -/
theorem readAnswer_zero : readAnswer m (DbInst.zero m.dbSlotWords) = { flags := 0, d0 := 0, d1 := 0 } := by
  simp [readAnswer, DbInst.zero, DbInst.readable, List.getD_eq_getElem?_getD, List.getElem?_getD_replicate_default_eq]

end

theorem publish_fresh (d : DbInst) (payload : List Word) : (d.publish payload).fresh = true := by
  unfold DbInst.publish
  cases d.rsel <;> rfl

/-- A payload is published in the slot that was not readable (40_double_buffer.md R83). -/
theorem publish_rsel (d : DbInst) (payload : List Word) : (d.publish payload).rsel = !d.rsel := by
  unfold DbInst.publish
  cases d.rsel <;> rfl

/-! ### The statements -/

/-- Settles O29: the DB.WRITE publishes the payload, the events between keep it by `BufferRun.keeps_payload`, and the
DB.READ answers it. -/
theorem readsReturnTheLastWritePayloadWhole : Obligations.ReadsReturnTheLastWritePayloadWhole := by
  intro s n op0 op1 evs rest wf count inputs keep
  have fits := (wf_iff s).1 wf
  obtain ⟨t, d, run, left, between, answer⟩ := run_then_dbRead fits count inputs
  have written := (afterEvent_dbWrite (fits.withInputs rest) count op0 op1).1
  rw [dbAt_of_getElem? written] at between
  obtain ⟨readable, fresh⟩ := between.keeps_payload keep
  rw [readable_publish] at readable
  rw [publish_fresh, Bool.true_and] at fresh
  obtain ⟨d0, d1⟩ := readAnswer_payload s.params d fits.legal readable
  obtain ⟨ill, new, -⟩ := readAnswer_flags s.params d
  refine ⟨t, run, left, ?_⟩
  rw [answer]
  exact ⟨d0, d1, new.trans fresh, ill⟩

/-- Settles O30: a DB.INIT or a reset empties the buffer, the events between leave it empty by `BufferRun.stays_empty`,
and the DB.READ answers zeros. -/
theorem readBeforeAnyWriteAnswersZero : Obligations.ReadBeforeAnyWriteAnswersZero := by
  intro s n e evs rest wf count first inputs noWrite
  have fits := (wf_iff s).1 wf
  obtain ⟨t, d, run, left, between, answer⟩ := run_then_dbRead fits count inputs
  have empty : (afterEvent { s with inputs := rest } e).dbAt n = DbInst.zero s.params.dbSlotWords := by
    obtain rfl | ⟨rDiscarded, wDiscarded, rfl⟩ := first
    · exact dbAt_of_getElem? (afterEvent_dbInit (fits.withInputs rest) count)
    · exact dbAt_afterReset _ n rDiscarded wDiscarded
  refine ⟨t, run, left, ?_⟩
  rw [answer, between.stays_empty noWrite empty, readAnswer_zero]

/-- Settles O31: each order is two effects, the second on the buffer that the first left. -/
theorem readWriteRaceHasTwoOutcomes : Obligations.ReadWriteRaceHasTwoOutcomes := by
  intro s n d op0 op1 wf count held
  have fits := ((wf_iff s).1 wf).withInputs []
  have old : State.dbAt { s with inputs := [] } n = d := dbAt_of_getElem? held
  refine ⟨⟨_, run_pair .., ?_⟩, ⟨_, run_pair .., ?_⟩⟩
  · have fits' := fits_afterEvent fits (.command .r (encode (.dbRead n 0)))
    obtain ⟨read, answer⟩ := afterEvent_dbRead fits count
    obtain ⟨written, kept⟩ := afterEvent_dbWrite fits' (by rwa [params_afterEvent]) op0 op1
    obtain ⟨-, fresh, slot⟩ := readAnswer_flags s.params d
    rw [kept, answer, old, written, dbAt_of_getElem? read, old]
    exact ⟨rfl, rfl, fresh, slot, by simp [publish_rsel, publish_fresh]⟩
  · have fits' := fits_afterEvent fits (.command .w (encode (.dbWrite n 0 op0 op1)))
    obtain ⟨written, -⟩ := afterEvent_dbWrite fits count op0 op1
    obtain ⟨read, answer⟩ := afterEvent_dbRead fits' (by rwa [params_afterEvent])
    rw [answer, read, dbAt_of_getElem? written, old, params_afterEvent]
    obtain ⟨d0, d1⟩ := readAnswer_payload s.params _ fits.legal (readable_publish d _)
    obtain ⟨-, fresh, slot⟩ := readAnswer_flags s.params (d.publish ([op0, op1].take s.params.dbSlotWords))
    exact ⟨d0, d1, fresh.trans (publish_fresh ..), slot.trans (publish_rsel ..), by simp [publish_rsel]⟩

end Sys2Proof.Proofs
end

section
/-! SUPPORT. The biquad cascade (41_biquad.md R93, R94): what `cascade` makes of the section at each place, its output
one section further, and the sections on which a zero stays a zero. -/
namespace Sys2Proof.Proofs
open Sys2Proof Sys2Proof.Machine

/-! ### Section by section -/

/-- The sections at or above the number of active ones are not written (41_biquad.md R93). -/
theorem cascade_getElem?_of_le {n j : Nat} (inactive : n ≤ j) (k : Nat) (v : Word) (secs : List Section) :
    (cascade k v n secs).1[j]? = secs[j]? := by
  induction secs generalizing k v n j with
  | nil => cases n <;> rfl
  | cons c rest ih =>
    cases n with
    | zero => rfl
    | succ n =>
      obtain ⟨j, rfl⟩ := Nat.exists_eq_add_of_le' (Nat.le_of_add_left_le inactive)
      exact ih (Nat.le_of_succ_le_succ inactive) ..

/-- An active section takes one step on the output of the sections before it (41_biquad.md R93). -/
theorem cascade_getElem?_of_lt {secs : List Section} {c : Section} {n j : Nat} (held : secs[j]? = some c)
    (active : j < n) (k : Nat) (v : Word) :
    (cascade k v n secs).1[j]? = some (sectionStep (k + 9 * j) (cascade k v j secs).2 c).1 := by
  induction secs generalizing k v n j with
  | nil => cases held
  | cons head rest ih =>
    obtain ⟨n, rfl⟩ := Nat.exists_eq_add_of_lt active
    cases j with
    | zero => cases held; rfl
    | succ j =>
      rw [show k + 9 * (j + 1) = k + 9 + 9 * j by omega]
      exact ih held (by omega) ..

/-- The output with one more section is that section's, on the output without it (41_biquad.md R93). -/
theorem cascade_output_succ {secs : List Section} {c : Section} {j : Nat} (held : secs[j]? = some c) (k : Nat)
    (v : Word) : (cascade k v (j + 1) secs).2 = (sectionStep (k + 9 * j) (cascade k v j secs).2 c).2 := by
  induction secs generalizing k v j with
  | nil => cases held
  | cons head rest ih =>
    cases j with
    | zero => cases held; rfl
    | succ j =>
      rw [show k + 9 * (j + 1) = k + 9 + 9 * j by omega]
      exact ih held ..

/-! ### Zeros -/

section
variable {a b : Word} (k : Nat)

theorem isZero_fmul (ha : isFinite a = true) (hb : isZero b = true) : isZero (fmul k a b) = true := by
  rw [fmul_comm, fmul_zero k hb ha, isZero_zeroOf]

theorem isZero_fadd (ha : isZero a = true) (hb : isZero b = true) : isZero (fadd k a b) = true := by
  rw [fadd_zero_zero k ha hb, isZero_zeroOf]

theorem isZero_fsub (ha : isZero a = true) (hb : isZero b = true) : isZero (fsub k a b) = true := by
  rw [fsub_zero_zero k ha hb, isZero_zeroOf]

end

/-- A section with zero state and finite coefficients (41_biquad.md R94). -/
structure AtRest (c : Section) : Prop where
  s0 : isZero c.s0 = true
  s1 : isZero c.s1 = true
  b0 : isFinite c.b0 = true
  b1 : isFinite c.b1 = true
  b2 : isFinite c.b2 = true
  a1 : isFinite c.a1 = true
  a2 : isFinite c.a2 = true

/-- Every product of a step is a finite coefficient times a zero, and every sum is of zeros. -/
theorem AtRest.sectionStep {c : Section} (rest : AtRest c) (k : Nat) {v : Word} (hv : isZero v = true) :
    AtRest (sectionStep k v c).1 ∧ isZero (sectionStep k v c).2 = true := by
  have hy := isZero_fadd (k + 1) (isZero_fmul k rest.b0 hv) rest.s0
  have hs0 := isZero_fsub (k + 5) (isZero_fadd (k + 3) (isZero_fmul (k + 2) rest.b1 hv) rest.s1)
    (isZero_fmul (k + 4) rest.a1 hy)
  have hs1 := isZero_fsub (k + 8) (isZero_fmul (k + 6) rest.b2 hv) (isZero_fmul (k + 7) rest.a2 hy)
  exact ⟨{ rest with s0 := hs0, s1 := hs1 }, hy⟩

/-- However many sections are active, a zero leaves all of them at rest and comes out as a zero. -/
theorem cascade_atRest {secs : List Section} (rest : ∀ c ∈ secs, AtRest c) (k : Nat) {v : Word} (hv : isZero v = true)
    (n : Nat) : (∀ c ∈ (cascade k v n secs).1, AtRest c) ∧ isZero (cascade k v n secs).2 = true := by
  induction secs generalizing k v n with
  | nil => cases n <;> exact ⟨rest, hv⟩
  | cons c secs ih =>
    cases n with
    | zero => exact ⟨rest, hv⟩
    | succ n =>
      obtain ⟨head, tail⟩ := List.forall_mem_cons.1 rest
      obtain ⟨stepped, hy⟩ := head.sectionStep k hv
      obtain ⟨others, output⟩ := ih tail (k + 9) hy n
      exact ⟨List.forall_mem_cons.2 ⟨stepped, others⟩, output⟩

end Sys2Proof.Proofs
end

section
/-! SUPPORT. The BIQ commands (41_biquad.md): the whole effect of each where it is legal, and the statements about
them. -/
namespace Sys2Proof.Proofs
open Sys2Proof Sys2Proof.Machine

/-! ### Registers -/

theorem biqReg_nsec (maxSec : Nat) : biqReg maxSec 0x00 = some .nsec := rfl

theorem biqReg_gain (maxSec : Nat) : biqReg maxSec 0x01 = some .gain := rfl

theorem biqReg_of_secReg {maxSec j k : Nat} {r : SecReg} (hj : j < maxSec) (h31 : j < 31) (reg : secReg k = some r) :
    biqReg maxSec (BitVec.ofNat 8 (8 + 8 * j + k)) = some (.sec j r) := by
  have hk : k < 7 := by
    by_contra reserved
    obtain ⟨k, rfl⟩ := Nat.exists_eq_add_of_le' (Nat.not_lt.1 reserved)
    cases reg
  rw [biqReg_section maxSec j k hj h31 hk, reg]
  rfl

theorem biqAt_of_getElem? {s : State} {n : Byte} {b : BiqInst} (h : s.biq[n.toNat]? = some b) : s.biqAt n = b := by
  rw [State.biqAt, List.getD_eq_getElem?_getD, h]
  rfl

section
variable {b : BiqInst} {j : Nat} {c : Section} (held : b.secs[j]? = some c) (r : SecReg)
include held

theorem biq_read_sec : b.read (.sec j r) = c.read r := by
  rw [BiqInst.read, List.getD_eq_getElem?_getD, held]
  rfl

theorem biq_write_sec (v : Word) : b.write v (.sec j r) = { b with secs := b.secs.set j (c.write v r) } := by
  rw [BiqInst.write, List.getD_eq_getElem?_getD, held]
  rfl

end

/-! ### The commands on a state that makes them legal -/

section
variable {s : State} {n : Byte} {b : BiqInst} (port : s.port = .r) (count : n.toNat < s.params.nBiq)
  (held : s.biq[n.toNat]? = some b)
include port count held

theorem exec_biqInit :
    exec (.biqInit n 0) s =
      .next { s with
        biq := s.biq.set n.toNat { b with secs := b.secs.map Section.cleared }, rResp := Resp.ofData 0 0 } := by
  rw [← biqAt_of_getElem? held]
  exact (conclude_legal (opChecks_pass.2 ⟨port, count, rfl⟩)).trans
    (congrArg _ (respond_on_r (s := s.setBiq n _) port _))

/-- A BIQ.WREG passes its checks where the register that IDX names is RW and a value for NSEC is in range
(60_exceptions.md R139). -/
theorem exec_biqWreg {idx : Byte} {v : Word} {reg : BiqReg} (named : biqReg s.params.biqMaxSec idx = some reg)
    (writable : biqClass reg = .rw) (value : reg = .nsec → v.toNat ≤ s.params.biqMaxSec) :
    exec (.biqWreg n idx v) s =
      .next { s with biq := s.biq.set n.toNat (b.write v reg), rResp := Resp.ofData 0 0 } := by
  have pass : firstFailing (s.wregChecks s.params.nBiq n ((biqReg s.params.biqMaxSec idx).map biqClass) ++
      [(biqReg s.params.biqMaxSec idx == some .nsec && decide (s.params.biqMaxSec < v.toNat), .badValue)]) = none := by
    simpa [firstFailing_wregChecks, named, port, Nat.not_le.2 count, writable] using value
  have run : exec (.biqWreg n idx v) s = _ := conclude_legal pass
  rw [run, respond_on_r (s := s.setBiq n _) port, named, biqAt_of_getElem? held]
  rfl

theorem exec_biqRreg {idx : Byte} {reg : BiqReg} (named : biqReg s.params.biqMaxSec idx = some reg) :
    exec (.biqRreg n idx) s = .next { s with rResp := Resp.ofData (b.read reg) 0 } := by
  have pass : firstFailing (s.rregChecks s.params.nBiq n ((biqReg s.params.biqMaxSec idx).map biqClass)) = none := by
    simp [firstFailing_rregChecks, named, port, Nat.not_le.2 count]
  have run : exec (.biqRreg n idx) s = _ := conclude_legal pass
  rw [run, respond_on_r port, named, biqAt_of_getElem? held]
  rfl

theorem exec_biqSample (x : Word) :
    exec (.biqSample n 0 x) s =
      .next { s with
        biq := s.biq.set n.toNat { b with secs := (cascade s.draws x b.nsec.toNat b.secs).1 }
        draws := s.draws + (9 * b.nsec.toNat + 1)
        rResp := Resp.ofData
          (fmul (s.draws + 9 * b.nsec.toNat) (cascade s.draws x b.nsec.toNat b.secs).2 b.gain) 0 } := by
  rw [← biqAt_of_getElem? held]
  exact (conclude_legal (opChecks_pass.2 ⟨port, count, rfl⟩)).trans
    (congrArg _ (respond_on_r (s := (s.setBiq n _).drew _) port _))

end

/-! ### The statements -/

/-- Settles O33: `exec_biqInit`, on `Section.cleared` written out. -/
theorem biqInitClearsTheDelayLine : Obligations.BiqInitClearsTheDelayLine := by
  refine ⟨decodesAt_of_selectOp fun _ _ _ _ => rfl, fun _ _ => refusesIllegal_all _, fun s i b port count held => ?_⟩
  rw [exec_biqInit port count held, ofData_eq]
  rfl

/-- Settles O34: `exec_biqWreg`, for NSEC, for GAIN and, by `biqReg_of_secReg`, for the five RW registers of a
section. -/
theorem biqWregWritesTheNamedRegister : Obligations.BiqWregWritesTheNamedRegister := by
  refine ⟨decodesAt_of_selectOp fun _ _ _ _ => rfl, fun _ _ _ => refusesIllegal_all _,
    fun s i b v port count held => ?_⟩
  rw [← ofData_eq]
  refine ⟨fun le => exec_biqWreg port count held (biqReg_nsec _) rfl fun _ => le,
    exec_biqWreg port count held (biqReg_gain _) rfl nofun, fun j c hj h31 sec => ?_⟩
  have write {k : Nat} (r : SecReg) (reg : secReg k = some r) (writable : biqClass (.sec j r) = .rw) :
      exec (.biqWreg i (BitVec.ofNat 8 (8 + 8 * j + k)) v) s =
        .next { s with
          biq := s.biq.set i.toNat { b with secs := b.secs.set j (c.write v r) }, rResp := Resp.ofData 0 0 } := by
    rw [exec_biqWreg port count held (biqReg_of_secReg hj h31 reg) writable nofun, biq_write_sec sec]
  exact ⟨write .b0 rfl rfl, write .b1 rfl rfl, write .b2 rfl rfl, write .a1 rfl rfl, write .a2 rfl rfl⟩

/-- Settles O35: `exec_biqRreg`, for NSEC, for GAIN and, by `biqReg_of_secReg`, for the seven registers of a section. -/
theorem biqRregAnswersTheNamedRegister : Obligations.BiqRregAnswersTheNamedRegister := by
  refine ⟨decodesAt_of_selectOp fun _ _ _ _ => rfl, fun _ _ => refusesIllegal_all _, fun s i b port count held => ?_⟩
  simp only [← ofData_eq]
  refine ⟨exec_biqRreg port count held (biqReg_nsec _), exec_biqRreg port count held (biqReg_gain _),
    fun j c hj h31 sec => ?_⟩
  have read {k : Nat} (r : SecReg) (reg : secReg k = some r) :
      exec (.biqRreg i (BitVec.ofNat 8 (8 + 8 * j + k))) s =
        .next { s with rResp := Resp.ofData (c.read r) 0 } := by
    rw [exec_biqRreg port count held (biqReg_of_secReg hj h31 reg), biq_read_sec sec]
  exact ⟨read .b0 rfl, read .b1 rfl, read .b2 rfl, read .a1 rfl, read .a2 rfl, read .s0 rfl, read .s1 rfl⟩

/-- Settles O36: the input of section `j` is the output of the cascade of the first `j` sections, and section `j` takes
the nine primitives from number `draws + 9*j` on. -/
theorem biqSampleRunsTheCascade : Obligations.BiqSampleRunsTheCascade := by
  refine ⟨decodesAt_of_selectOp fun _ _ _ _ => rfl, fun _ _ _ => refusesIllegal_all _,
    fun s i b x port count held _ => ?_⟩
  have run := exec_biqSample port count held x
  rw [ofData_eq] at run
  refine ⟨fun j => (cascade s.draws x j b.secs).2, _, _, _, rfl, cascade_length .., run, fun j c sec => ⟨?_, ?_⟩⟩
  · intro inactive
    rw [cascade_getElem?_of_le inactive, sec]
  · intro active
    refine ⟨fun p => s.draws + 9 * j + p, cascade_output_succ sec .., ?_⟩
    simp only [cascade_output_succ sec]
    exact cascade_getElem?_of_lt sec active ..

/-- Settles O37: `cascade_atRest`; the answer is the zero that comes out times a finite gain. -/
theorem zeroInputOnZeroStateGivesZero : Obligations.ZeroInputOnZeroStateGivesZero := by
  intro s i b x port count held hx gain zeroState
  have rest : ∀ c ∈ b.secs, AtRest c := fun c hc =>
    let ⟨s0, s1, b0, b1, b2, a1, a2⟩ := zeroState c hc
    ⟨s0, s1, b0, b1, b2, a1, a2⟩
  obtain ⟨stays, output⟩ := cascade_atRest rest s.draws hx b.nsec.toNat
  obtain ⟨bound, -⟩ := List.getElem?_eq_some_iff.1 held
  refine ⟨_, _, exec_biqSample port count held x, ?_, List.getElem?_set_self bound,
    fun c hc => ⟨(stays c hc).s0, (stays c hc).s1⟩⟩
  rw [ofData_eq, fmul_comm]
  exact isZero_fmul _ gain output

end Sys2Proof.Proofs
end

section
/-! SUPPORT. Legal commands on the R port: what each kind of check list asks for, and what a command that passes its
checks leaves. -/
namespace Sys2Proof.Proofs
open Sys2Proof Sys2Proof.Machine

/-- A command that passes its checks and answers on the R port has the effect of its rule, and its response stands on
that port. -/
theorem conclude_respond_on_r {s t : State} {cs : List (Bool × Cause)} (pass : firstFailing cs = none)
    (port : t.port = .r) (r : Resp) : s.conclude cs (t.respond r) = .next { t with rResp := r } := by
  rw [conclude_legal pass, respond_on_r port]

section
variable {s : State} {n : Nat} {inst : Byte} (port : s.port = .r) (count : inst.toNat < n)
include port count

theorem opChecks_legal : firstFailing (s.opChecks .r n inst 0) = none := opChecks_pass.2 ⟨port, count, rfl⟩

/-- An RREG takes a register of any class. -/
theorem rregChecks_legal (c : RegClass) : firstFailing (s.rregChecks n inst (some c)) = none := by
  simp [firstFailing_rregChecks, port, Nat.not_le.2 count]

/-- A WREG takes an RW register. -/
theorem wregChecks_legal : firstFailing (s.wregChecks n inst (some .rw)) = none := by
  rw [← List.append_nil (s.wregChecks n inst _), firstFailing_wregChecks]
  simp [port, Nat.not_le.2 count]

/-- An RREG whose index names a register answers that register, and changes nothing else. -/
theorem conclude_rreg {ρ : Type} {named : Option ρ} {reg : ρ} (h : named = some reg) (cls : ρ → RegClass)
    (read : ρ → Word) :
    s.conclude (s.rregChecks n inst (named.map cls)) (s.respond (Resp.ofData (named.elim 0 read) 0)) =
      .next { s with rResp := Resp.ofData (read reg) 0 } := by
  subst h
  exact conclude_respond_on_r (rregChecks_legal port count (cls reg)) port _

end

end Sys2Proof.Proofs
end

section
/-! SUPPORT. The CF1 and CF2 commands (42_complementary.md), with PIDT.INIT (43_pid.md R119): the whole effect of each
where it is legal, and the statements about them. -/
namespace Sys2Proof.Proofs
open Sys2Proof Sys2Proof.Machine

/-! ### Instances and registers -/

theorem cf1At_of_getElem? {s : State} {n : Byte} {c : Cf1Inst} (h : s.cf1[n.toNat]? = some c) : s.cf1At n = c := by
  simp [State.cf1At, h]

theorem cf2At_of_getElem? {s : State} {n : Byte} {c : Cf2Inst} (h : s.cf2[n.toNat]? = some c) : s.cf2At n = c := by
  simp [State.cf2At, h]

theorem pidtAt_of_getElem? {s : State} {n : Byte} {c : PidtInst} (h : s.pidt[n.toNat]? = some c) : s.pidtAt n = c := by
  simp [State.pidtAt, h]

/-- The CF1 register map lists TAU, XPREV and YPREV in order (10_state.md R27). -/
theorem cf1Reg_read (c : Cf1Inst) (idx : Byte) :
    (cf1Reg idx).map c.read = [c.tau, c.xprev, c.yprev][idx.toNat]? := by
  unfold cf1Reg
  rcases idx.toNat with _ | _ | _ | n <;> rfl

/-- The CF2 register map lists TAU, X1, X2, Y1 and Y2 in order (10_state.md R28). -/
theorem cf2Reg_read (c : Cf2Inst) (idx : Byte) :
    (cf2Reg idx).map c.read = [c.tau, c.x1, c.x2, c.y1, c.y2][idx.toNat]? := by
  unfold cf2Reg
  rcases idx.toNat with _ | _ | _ | _ | _ | n <;> rfl

/-! ### The CF1 commands on a state that makes them legal -/

section
variable {s : State} {n : Byte} (port : s.port = .r) (count : n.toNat < s.params.nCf1)
include port count

theorem exec_cf1Init :
    exec (.cf1Init n 0) s =
      .next { s with
        cf1 := s.cf1.set n.toNat { s.cf1At n with xprev := 0, yprev := 0 }, rResp := Resp.ofData 0 0 } :=
  conclude_respond_on_r (t := s.setCf1 n _) (opChecks_legal port count) port _

/-- TAU is RW at index 0 (10_state.md R27). -/
theorem exec_cf1Wreg_tau (v : Word) :
    exec (.cf1Wreg n 0 v) s =
      .next { s with cf1 := s.cf1.set n.toNat { s.cf1At n with tau := v }, rResp := Resp.ofData 0 0 } :=
  conclude_respond_on_r (t := s.setCf1 n _) (wregChecks_legal port count) port _

theorem exec_cf1Rreg {idx : Byte} {reg : Cf1Reg} (named : cf1Reg idx = some reg) :
    exec (.cf1Rreg n idx) s = .next { s with rResp := Resp.ofData ((s.cf1At n).read reg) 0 } :=
  conclude_rreg port count named cf1Class (s.cf1At n).read

theorem exec_cf1SampleAcc (x : Word) :
    exec (.cf1SampleAcc n 0 x) s =
      .next { s with
        cf1 := s.cf1.set n.toNat { s.cf1At n with xprev := x, yprev := cf1Acc s.draws x (s.cf1At n) }
        draws := s.draws + 6
        rResp := Resp.ofData (cf1Acc s.draws x (s.cf1At n)) 0 } :=
  conclude_respond_on_r (t := (s.setCf1 n _).drew 6) (opChecks_legal port count) port _

theorem exec_cf1SampleGyr (x : Word) :
    exec (.cf1SampleGyr n 0 x) s =
      .next { s with
        cf1 := s.cf1.set n.toNat { s.cf1At n with xprev := x, yprev := cf1Gyr s.draws x (s.cf1At n) }
        draws := s.draws + 8
        rResp := Resp.ofData (cf1Gyr s.draws x (s.cf1At n)) 0 } :=
  conclude_respond_on_r (t := (s.setCf1 n _).drew 8) (opChecks_legal port count) port _

end

/-! ### The CF2 commands on a state that makes them legal -/

section
variable {s : State} {n : Byte} (port : s.port = .r) (count : n.toNat < s.params.nCf2)
include port count

theorem exec_cf2Init :
    exec (.cf2Init n 0) s =
      .next { s with
        cf2 := s.cf2.set n.toNat { s.cf2At n with x1 := 0, x2 := 0, y1 := 0, y2 := 0 }
        rResp := Resp.ofData 0 0 } :=
  conclude_respond_on_r (t := s.setCf2 n _) (opChecks_legal port count) port _

/-- TAU is RW at index 0 (10_state.md R28). -/
theorem exec_cf2Wreg_tau (v : Word) :
    exec (.cf2Wreg n 0 v) s =
      .next { s with cf2 := s.cf2.set n.toNat { s.cf2At n with tau := v }, rResp := Resp.ofData 0 0 } :=
  conclude_respond_on_r (t := s.setCf2 n _) (wregChecks_legal port count) port _

theorem exec_cf2Rreg {idx : Byte} {reg : Cf2Reg} (named : cf2Reg idx = some reg) :
    exec (.cf2Rreg n idx) s = .next { s with rResp := Resp.ofData ((s.cf2At n).read reg) 0 } :=
  conclude_rreg port count named cf2Class (s.cf2At n).read

/-- Both samples are one section; the branch picks its coefficients (42_complementary.md R105, R106). -/
theorem cf2Sample_legal (br : Branch) (x : Word) :
    let y := cf2Output s.draws (Config.cf2Coeffs br (s.cf2At n).tau) x (s.cf2At n)
    cf2Sample br n 0 x s =
      .next { s with
        cf2 := s.cf2.set n.toNat ((s.cf2At n).shifted x y)
        draws := s.draws + 9
        rResp := Resp.ofData y 0 } :=
  conclude_respond_on_r (t := (s.setCf2 n _).drew 9) (opChecks_legal port count) port _

end

/-! ### PIDT.INIT -/

theorem exec_pidtInit {s : State} {n : Byte} (port : s.port = .r) (count : n.toNat < s.params.nPidt) :
    exec (.pidtInit n 0) s =
      .next { s with
        pidt := s.pidt.set n.toNat { s.pidtAt n with integ := 0, eprev := 0 }, rResp := Resp.ofData 0 0 } :=
  conclude_respond_on_r (t := s.setPidt n _) (opChecks_legal port count) port _

/-! ### The statements -/

/-- Settles O38: the effect of each of the three INITs, with the registers that it keeps written out. -/
theorem filterInitsClearTheHistory : Obligations.FilterInitsClearTheHistory := by
  refine ⟨decodesAt_of_selectOp fun _ _ _ _ => rfl, decodesAt_of_selectOp fun _ _ _ _ => rfl,
    decodesAt_of_selectOp fun _ _ _ _ => rfl,
    fun _ _ => ⟨refusesIllegal_all _, refusesIllegal_all _, refusesIllegal_all _⟩, ?cf1, ?cf2, ?pidt⟩
  case cf1 =>
    intro s i c port count held
    rw [exec_cf1Init port count, cf1At_of_getElem? held, ofData_eq]
  case cf2 =>
    intro s i c port count held
    rw [exec_cf2Init port count, cf2At_of_getElem? held, ofData_eq]
  case pidt =>
    intro s i c port count held
    rw [exec_pidtInit port count, pidtAt_of_getElem? held, ofData_eq]

/-- Settles O39: `exec_cf1Wreg_tau` and `exec_cf2Wreg_tau`. -/
theorem filterWregsWriteTau : Obligations.FilterWregsWriteTau := by
  refine ⟨decodesAt_of_selectOp fun _ _ _ _ => rfl, decodesAt_of_selectOp fun _ _ _ _ => rfl,
    fun _ _ _ => ⟨refusesIllegal_all _, refusesIllegal_all _⟩, ?cf1, ?cf2⟩
  case cf1 =>
    intro s i c v port count held
    rw [exec_cf1Wreg_tau port count, cf1At_of_getElem? held, ofData_eq]
  case cf2 =>
    intro s i c v port count held
    rw [exec_cf2Wreg_tau port count, cf2At_of_getElem? held, ofData_eq]

/-- Settles O40: the index is in the register map's list, so it names a register, and the RREG answers that one. -/
theorem filterRregsAnswerTheNamedRegister : Obligations.FilterRregsAnswerTheNamedRegister := by
  refine ⟨decodesAt_of_selectOp fun _ _ _ _ => rfl, decodesAt_of_selectOp fun _ _ _ _ => rfl,
    fun _ _ => ⟨refusesIllegal_all _, refusesIllegal_all _⟩, ?cf1, ?cf2⟩
  case cf1 =>
    intro s i idx c v port count held listed
    rw [← cf1Reg_read, Option.map_eq_some_iff] at listed
    obtain ⟨reg, named, rfl⟩ := listed
    rw [exec_cf1Rreg port count named, cf1At_of_getElem? held, ofData_eq]
  case cf2 =>
    intro s i idx c v port count held listed
    rw [← cf2Reg_read, Option.map_eq_some_iff] at listed
    obtain ⟨reg, named, rfl⟩ := listed
    rw [exec_cf2Rreg port count named, cf2At_of_getElem? held, ofData_eq]

/-- Settles O41: `exec_cf1SampleAcc`; the sample takes the six primitives from number `draws` on. -/
theorem cf1SampleAccIsTheLowPassTerm : Obligations.Cf1SampleAccIsTheLowPassTerm := by
  refine ⟨decodesAt_of_selectOp fun _ _ _ _ => rfl, fun _ _ _ => refusesIllegal_all _,
    fun s i c x port count held => ⟨cf1Acc s.draws x c, fun p => s.draws + p, s.draws + 6, rfl, ?_⟩⟩
  rw [exec_cf1SampleAcc port count, cf1At_of_getElem? held, ofData_eq]

/-- Settles O42: `exec_cf1SampleGyr`; the sample takes the eight primitives from number `draws` on. -/
theorem cf1SampleGyrIsTheComplementaryTerm : Obligations.Cf1SampleGyrIsTheComplementaryTerm := by
  refine ⟨decodesAt_of_selectOp fun _ _ _ _ => rfl, fun _ _ _ => refusesIllegal_all _,
    fun s i c x port count held => ⟨cf1Gyr s.draws x c, fun p => s.draws + p, s.draws + 8, rfl, ?_⟩⟩
  rw [exec_cf1SampleGyr port count, cf1At_of_getElem? held, ofData_eq]

/-- Settles O43: `cf2Sample_legal` of either branch; a sample takes the nine primitives from number `draws` on. -/
theorem cf2SamplesAreADirectFormSection : Obligations.Cf2SamplesAreADirectFormSection := by
  refine ⟨decodesAt_of_selectOp fun _ _ _ _ => rfl, decodesAt_of_selectOp fun _ _ _ _ => rfl,
    fun _ _ _ => ⟨refusesIllegal_all _, refusesIllegal_all _⟩, fun s i c x port count held => ?_⟩
  have sample (br : Branch) := cf2Sample_legal port count br x
  simp only [cf2At_of_getElem? held, ofData_eq] at sample
  exact ⟨⟨fun p => s.draws + p, _, sample .acc⟩, ⟨fun p => s.draws + p, _, sample .gyr⟩⟩

end Sys2Proof.Proofs
end

section
/-! SUPPORT. The clamp of PIDT's integral (43_pid.md R122 to R124): what it gives for a value above, below and inside
its bounds, that a sum with a bound moves away from zero and so is clamped back to that bound; and the statement about
the clamp. -/
namespace Sys2Proof.Proofs
open Sys2Proof Sys2Proof.Machine

/-! ### Signed numbers and patterns by their values -/

@[simp] theorem signed_false (n : Nat) : signed false n = n := rfl

@[simp] theorem signed_true (n : Nat) : signed true n = -n := rfl

theorem signed_add_signed (neg : Bool) (m n : Nat) : signed neg m + signed neg n = signed neg (m + n) := by
  cases neg <;> simp only [signed_false, signed_true] <;> omega

theorem natAbs_signed (neg : Bool) (n : Nat) : (signed neg n).natAbs = n := by
  cases neg <;> simp only [signed_false, signed_true] <;> omega

theorem signed_neg_iff {n : Nat} (hn : n ≠ 0) (neg : Bool) : signed neg n < 0 ↔ neg = true := by
  cases neg with
  | false => simp
  | true => simpa using Nat.pos_of_ne_zero hn

/-- The magnitude of a value. -/
theorem unitsOf_eq_natAbs (a : Word) : unitsOf a = (valueOf a).natAbs := by
  unfold valueOf
  split <;> omega

/-- The low 31 bits of a pattern that is no NaN are at most the infinity's. -/
theorem magBits_le_of_not_nan {a : Word} (h : isNaN a = false) : a.toNat % 2 ^ 31 ≤ 0x7F800000 := by
  simp only [isNaN, expoOf_eq, fracOf_eq, Bool.and_eq_false_iff, beq_eq_false_iff_ne, bne_eq_false_iff_eq] at h
  omega

/-- No number is beyond the infinity. -/
theorem valueOf_le_inf {a : Word} (h : isNaN a = false) :
    -valueOf 0x7F800000#32 ≤ valueOf a ∧ valueOf a ≤ valueOf 0x7F800000#32 := by
  have units : unitsOf a ≤ unitsOf 0x7F800000#32 := by
    rw [unitsOf_eq, unitsOf_eq]
    exact magUnits_strictMono.monotone (magBits_le_of_not_nan h)
  have value : valueOf 0x7F800000#32 = (unitsOf 0x7F800000#32 : Int) := if_neg (by decide)
  have magnitude := unitsOf_eq_natAbs a
  omega

/-- Sign and magnitude determine the pattern. -/
theorem eq_of_sign_units {a b : Word} (sign : signOf a = signOf b) (units : unitsOf a = unitsOf b) : a = b := by
  rw [unitsOf_eq, unitsOf_eq] at units
  have low := magUnits_strictMono.injective units
  have high : a.toNat / 2 ^ 31 % 2 = b.toNat / 2 ^ 31 % 2 := by
    simp only [signOf, BitVec.getLsbD, Nat.testBit_eq_decide_div_mod_eq, decide_eq_decide] at sign
    omega
  apply BitVec.eq_of_toNat_eq
  have := a.isLt
  have := b.isLt
  omega

/-- Only the two zeros share a value. -/
theorem eq_of_valueOf_eq {a b : Word} (h : valueOf a = valueOf b) (nonzero : valueOf a ≠ 0) : a = b := by
  refine eq_of_sign_units ?_ (by rw [unitsOf_eq_natAbs, h, ← unitsOf_eq_natAbs])
  rw [valueOf_eq a] at h nonzero
  rw [valueOf_eq b] at h
  cases ha : signOf a <;> cases hb : signOf b
  case false.false | true.true => rfl
  all_goals
    simp only [ha, hb, signed_false, signed_true] at h nonzero
    omega

/-! ### The bounds -/

/-- The bound of a sign, `+S` or `-S` (43_pid.md R123, R124). -/
def boundOf (neg : Bool) (S : Word) : Word := if neg then fneg S else S

@[simp] theorem isFinite_boundOf (neg : Bool) (S : Word) : isFinite (boundOf neg S) = isFinite S := by
  cases neg <;> simp [boundOf]

@[simp] theorem unitsOf_boundOf (neg : Bool) (S : Word) : unitsOf (boundOf neg S) = unitsOf S := by
  cases neg <;> simp [boundOf]

/-- A `S` that is not negative, -0 included, has its bounds at its magnitude on either side of zero. -/
theorem valueOf_boundOf {S : Word} (notNegative : 0 ≤ valueOf S) (neg : Bool) :
    valueOf (boundOf neg S) = signed neg (unitsOf S) := by
  have magnitude := unitsOf_eq_natAbs S
  cases neg with
  | false =>
    simp only [boundOf, Bool.false_eq_true, if_false, signed_false]
    omega
  | true =>
    simp only [boundOf, if_true, valueOf_fneg, signed_true]
    omega

/-! ### The clamp by the place of the value -/

section
variable {q S : Word}

/-- A clamp with a NaN on either side keeps the value: both comparisons are false (43_pid.md R123). -/
theorem clamp_nan (h : isNaN q = true ∨ isNaN S = true) : clamp q S = q := by
  rcases h with h | h <;> simp [clamp, fgt, flt, h]

variable (hq : isNaN q = false) (hS : isNaN S = false)
include hq hS

/-- Without a NaN the clamp compares values. -/
theorem clamp_eq :
    clamp q S =
      if valueOf S < valueOf q then S else if valueOf q < -valueOf S then fneg S else q := by
  simp [clamp, fgt, flt, hq, hS]

theorem clamp_above (h : valueOf S < valueOf q) : clamp q S = S := by
  rw [clamp_eq hq hS, if_pos h]

theorem clamp_below (h : valueOf q ≤ valueOf S) (h' : valueOf q < -valueOf S) : clamp q S = fneg S := by
  rw [clamp_eq hq hS, if_neg (by omega), if_pos h']

theorem clamp_inside (h : -valueOf S ≤ valueOf q) (h' : valueOf q ≤ valueOf S) : clamp q S = q := by
  rw [clamp_eq hq hS, if_neg (by omega), if_neg (by omega)]

/-- A value that lies at least as far from zero as the bound is clamped to the bound of its sign (43_pid.md R123). At
the bound it is kept, and it is that bound's pattern: it is not zero. -/
theorem clamp_beyond {neg : Bool} {l : Nat} (value : valueOf q = signed neg l) (nonzero : l ≠ 0)
    (notNegative : 0 ≤ valueOf S) (beyond : unitsOf S ≤ l) : clamp q S = boundOf neg S := by
  have magnitude := unitsOf_eq_natAbs S
  rcases beyond.lt_or_eq with outside | same
  · cases neg with
    | false =>
      rw [signed_false] at value
      exact clamp_above hq hS (by omega)
    | true =>
      rw [signed_true] at value
      exact clamp_below hq hS (by omega) (by omega)
  · have atBound : valueOf q = valueOf (boundOf neg S) := by rw [valueOf_boundOf notNegative, same, value]
    have pattern : q = boundOf neg S := eq_of_valueOf_eq atBound (by
      cases neg <;> simp only [signed_false, signed_true] at value <;> omega)
    have inside : -valueOf S ≤ valueOf q ∧ valueOf q ≤ valueOf S := by
      cases neg <;> simp only [signed_false, signed_true] at value <;> omega
    rw [clamp_inside hq hS inside.1 inside.2, pattern]

end

/-- Settles O51: the clamp compares values, so each kind of bound is one of the cases `clamp_nan`, `clamp_above`,
`clamp_below` and `clamp_inside`. -/
theorem clampByTheKindOfBound : Obligations.ClampByTheKindOfBound := by
  intro q S
  refine ⟨rfl, ?unclamped, ?interval, ?negative⟩
  case unclamped =>
    rintro (nan | nan | rfl)
    · exact clamp_nan (.inl nan)
    · exact clamp_nan (.inr nan)
    · cases hq : isNaN q with
      | true => exact clamp_nan (.inl hq)
      | false => exact clamp_inside hq (by decide) (valueOf_le_inf hq).1 (valueOf_le_inf hq).2
  case interval =>
    intro hq finite bound
    have hS := isNaN_of_isFinite finite
    rcases lt_or_ge (valueOf S) (valueOf q) with above | le
    · rw [clamp_above hq hS above]
      exact ⟨by omega, by omega, fun _ _ => by omega⟩
    · rcases lt_or_ge (valueOf q) (-valueOf S) with below | ge
      · rw [clamp_below hq hS le below, valueOf_fneg]
        exact ⟨by omega, by omega, fun _ _ => by omega⟩
      · rw [clamp_inside hq hS ge le]
        exact ⟨ge, le, fun _ _ => rfl⟩
  case negative =>
    intro hq hS negative
    split
    case isTrue above => exact clamp_above hq hS above
    case isFalse le => exact clamp_below hq hS (by omega) (by omega)

/-! ### A sum with a bound -/

/-- Rounding does not go below a magnitude that the number reaches. -/
theorem le_magUnits_roundMag {m num : Nat} (hm : m ≤ 0x7F800000) (h : magUnits m ≤ num) :
    magUnits m ≤ magUnits (roundMag num 1) := by
  by_cases infinite : roundMag num 1 = 0x7F800000
  · rw [← infinite] at hm
    exact magUnits_strictMono.monotone hm
  · have nearest := (roundMag_nearest num 1 m Nat.one_pos infinite).1
    omega

/-- Rounding a whole number of units, not zero, leaves a magnitude. -/
theorem magUnits_roundMag_ne_zero {n : Nat} (hn : n ≠ 0) : magUnits (roundMag n 1) ≠ 0 := by
  rw [← magUnits_zero]
  exact magUnits_strictMono.injective.ne (roundMag_one_ne_zero hn)

/-- A sum of two numbers of one sign, not zero, has that sign and the rounded sum of the magnitudes. -/
theorem fadd_same_sign (k : Nat) {a b : Word} {neg : Bool} (ha : isFinite a = true) (hb : isFinite b = true)
    (first : valueOf a = signed neg (unitsOf a)) (second : valueOf b = signed neg (unitsOf b))
    (nonzero : unitsOf b ≠ 0) : fadd k a b = packSign neg (roundMag (unitsOf a + unitsOf b) 1) := by
  have total : unitsOf a + unitsOf b ≠ 0 := by omega
  have sum : valueOf a + valueOf b = signed neg (unitsOf a + unitsOf b) := by rw [first, second, signed_add_signed]
  have magnitude := natAbs_signed neg (unitsOf a + unitsOf b)
  rw [fadd_nonzero k ha hb (by omega), sum, magnitude]
  simp only [signed_neg_iff total, Bool.decide_eq_true]

/-- Adding a number of the same sign moves away from zero: the sum is a number of that sign, not zero, and no rounding
brings it nearer to zero than the first summand was (43_pid.md R124). A zero summand may have either sign. -/
theorem fadd_away (k : Nat) {a b : Word} {neg : Bool} (ha : isFinite a = true) (hb : isFinite b = true)
    (first : valueOf a = signed neg (unitsOf a)) (second : valueOf b = signed neg (unitsOf b))
    (nonzero : unitsOf b ≠ 0) :
    isNaN (fadd k a b) = false ∧ ∃ l, valueOf (fadd k a b) = signed neg l ∧ l ≠ 0 ∧ unitsOf a ≤ l := by
  have top := roundMag_le (unitsOf a + unitsOf b) 1
  have away : unitsOf a ≤ magUnits (roundMag (unitsOf a + unitsOf b) 1) := by
    rw [unitsOf_eq a]
    exact le_magUnits_roundMag (magBits_le_of_not_nan (isNaN_of_isFinite ha)) (Nat.le_add_right _ _)
  rw [fadd_same_sign k ha hb first second nonzero]
  exact ⟨isNaN_packSign neg _ top, _, valueOf_packSign neg _ (Nat.lt_of_le_of_lt top (by decide)),
    magUnits_roundMag_ne_zero (by omega), away⟩

/-- An integral at the bound of the sign of `e*dt` is clamped back to that bound (43_pid.md R124). -/
theorem pidtIntegral_at_bound (k : Nat) {e dt : Word} {c : PidtInst} (finite : isFinite c.sat = true)
    (notNegative : 0 ≤ valueOf c.sat) (hp : isFinite (fmul k e dt) = true) (nonzero : valueOf (fmul k e dt) ≠ 0)
    (atBound : c.integ = boundOf (decide (valueOf (fmul k e dt) < 0)) c.sat) :
    pidtIntegral k e dt c = c.integ := by
  have units := unitsOf_eq_natAbs (fmul k e dt)
  have sign : valueOf (fmul k e dt) = signed (decide (valueOf (fmul k e dt) < 0)) (unitsOf (fmul k e dt)) := by
    rw [units, signed_natAbs]
  have boundFinite : isFinite c.integ = true := by rw [atBound, isFinite_boundOf, finite]
  have boundUnits : unitsOf c.integ = unitsOf c.sat := by rw [atBound, unitsOf_boundOf]
  have boundValue : valueOf c.integ = signed (decide (valueOf (fmul k e dt) < 0)) (unitsOf c.integ) := by
    rw [boundUnits, atBound, valueOf_boundOf notNegative]
  obtain ⟨number, l, value, hl, away⟩ := fadd_away (k + 1) boundFinite hp boundValue sign (by omega)
  rw [pidtIntegral, clamp_beyond number (isNaN_of_isFinite finite) value hl notNegative (boundUnits ▸ away), atBound]

end Sys2Proof.Proofs
end

section
/-! SUPPORT. The PIDD and PIDT commands (43_pid.md R115 to R122): the whole effect of each where it is legal, and the
statements about them. -/
namespace Sys2Proof.Proofs
open Sys2Proof Sys2Proof.Machine

/-! ### Instances and registers -/

theorem piddAt_of_getElem? {s : State} {n : Byte} {c : PiddInst} (h : s.pidd[n.toNat]? = some c) : s.piddAt n = c := by
  simp [State.piddAt, h]

/-- The PIDD register map lists the gains, the coefficients and the history in order (10_state.md R29). -/
theorem piddReg_read (c : PiddInst) (idx : Byte) :
    (piddReg idx).map c.read = [c.kp, c.ki, c.kd, c.k1, c.k2, c.k3, c.e1, c.e2, c.uprev][idx.toNat]? := by
  unfold piddReg
  rcases idx.toNat with _ | _ | _ | _ | _ | _ | _ | _ | _ | n <;> rfl

/-- The PIDT register map lists the gains, SAT, INTEG and EPREV in order (10_state.md R30). -/
theorem pidtReg_read (c : PidtInst) (idx : Byte) :
    (pidtReg idx).map c.read = [c.kp, c.ki, c.kd, c.sat, c.integ, c.eprev][idx.toNat]? := by
  unfold pidtReg
  rcases idx.toNat with _ | _ | _ | _ | _ | _ | n <;> rfl

/-- A WREG whose index names an RW register passes its checks (60_exceptions.md R139). -/
theorem wregChecks_named {ρ : Type} {s : State} {m : Nat} {n : Byte} {named : Option ρ} {reg : ρ}
    {cls : ρ → RegClass} (port : s.port = .r) (count : n.toNat < m) (h : named = some reg) (writable : cls reg = .rw) :
    firstFailing (s.wregChecks m n (named.map cls)) = none := by
  rw [h, Option.map_some, writable]
  exact wregChecks_legal port count

/-! ### The PIDD commands on a state that makes them legal -/

section
variable {s : State} {n : Byte} (port : s.port = .r) (count : n.toNat < s.params.nPidd)
include port count

theorem exec_piddInit :
    exec (.piddInit n 0) s =
      .next { s with
        pidd := s.pidd.set n.toNat ((s.piddAt n).constructed s.draws)
        draws := s.draws + 4
        rResp := Resp.ofData 0 0 } :=
  conclude_respond_on_r (t := (s.setPidd n _).drew 4) (opChecks_legal port count) port _

/-- A PIDD.WREG writes the RW register that IDX names (10_state.md R24, R29). -/
theorem exec_piddWreg {idx : Byte} {reg : PiddReg} (named : piddReg idx = some reg) (writable : piddClass reg = .rw)
    (v : Word) :
    exec (.piddWreg n idx v) s =
      .next { s with pidd := s.pidd.set n.toNat ((s.piddAt n).write v reg), rResp := Resp.ofData 0 0 } := by
  have run : exec (.piddWreg n idx v) s = _ :=
    conclude_respond_on_r (t := s.setPidd n _) (wregChecks_named port count named writable) port _
  rw [run, named]
  rfl

theorem exec_piddRreg {idx : Byte} {reg : PiddReg} (named : piddReg idx = some reg) :
    exec (.piddRreg n idx) s = .next { s with rResp := Resp.ofData ((s.piddAt n).read reg) 0 } :=
  conclude_rreg port count named piddClass (s.piddAt n).read

theorem exec_piddCalc (e : Word) :
    let u := piddOutput s.draws e (s.piddAt n)
    exec (.piddCalc n 0 e) s =
      .next { s with
        pidd := s.pidd.set n.toNat { s.piddAt n with e2 := (s.piddAt n).e1, e1 := e, uprev := u }
        draws := s.draws + 6
        rResp := Resp.ofData u 0 } :=
  conclude_respond_on_r (t := (s.setPidd n _).drew 6) (opChecks_legal port count) port _

end

/-! ### The PIDT commands on a state that makes them legal -/

section
variable {s : State} {n : Byte} (port : s.port = .r) (count : n.toNat < s.params.nPidt)
include port count

/-- A PIDT.WREG writes the RW register that IDX names (10_state.md R24, R30). -/
theorem exec_pidtWreg {idx : Byte} {reg : PidtReg} (named : pidtReg idx = some reg) (writable : pidtClass reg = .rw)
    (v : Word) :
    exec (.pidtWreg n idx v) s =
      .next { s with pidt := s.pidt.set n.toNat ((s.pidtAt n).write v reg), rResp := Resp.ofData 0 0 } := by
  have run : exec (.pidtWreg n idx v) s = _ :=
    conclude_respond_on_r (t := s.setPidt n _) (wregChecks_named port count named writable) port _
  rw [run, named]
  rfl

theorem exec_pidtRreg {idx : Byte} {reg : PidtReg} (named : pidtReg idx = some reg) :
    exec (.pidtRreg n idx) s = .next { s with rResp := Resp.ofData ((s.pidtAt n).read reg) 0 } :=
  conclude_rreg port count named pidtClass (s.pidtAt n).read

theorem exec_pidtCalc (e dt : Word) :
    let i := pidtIntegral s.draws e dt (s.pidtAt n)
    exec (.pidtCalc n 0 e dt) s =
      .next { s with
        pidt := s.pidt.set n.toNat { s.pidtAt n with integ := i, eprev := e }
        draws := s.draws + 9
        rResp := Resp.ofData (pidtOutput (s.draws + 2) e dt i (s.pidtAt n)) 0 } :=
  conclude_respond_on_r (t := (s.setPidt n _).drew 9) (opChecks_legal port count) port _

end

/-! ### The statements -/

/-- Settles O52: `pidtIntegral_at_bound`; a finite `e*dt` is the same whatever the number of the primitive. -/
theorem saturatedIntegralStaysAtTheBound : Obligations.SaturatedIntegralStaysAtTheBound := by
  intro s i c e dt port count held finite notNegative hp nonzero atBound
  rw [← fmul_eq_of_not_nan (isNaN_of_isFinite hp) s.draws] at nonzero atBound hp
  have bound : c.integ = boundOf (decide (valueOf (fmul s.draws e dt) < 0)) c.sat := by
    rw [atBound]
    rcases lt_or_gt_of_ne nonzero with negative | positive
    · simp [boundOf, negative, negative.not_gt]
    · simp [boundOf, positive, positive.not_gt]
  refine ⟨_, exec_pidtCalc port count e dt, ?_⟩
  simp only [pidtAt_of_getElem? held, pidtIntegral_at_bound s.draws finite notNegative hp nonzero bound,
    List.getElem?_set_self', held]
  rfl

/-- Settles O44: `exec_piddInit`; it takes the four primitives from number `draws` on. -/
theorem piddInitDerivesTheCoefficients : Obligations.PiddInitDerivesTheCoefficients := by
  refine ⟨decodesAt_of_selectOp fun _ _ _ _ => rfl, fun _ _ => refusesIllegal_all _,
    fun s i c port count held => ⟨fun p => s.draws + p, s.draws + 4, ?_⟩⟩
  rw [exec_piddInit port count, piddAt_of_getElem? held, ofData_eq]
  rfl

/-- Settles O45: `exec_piddWreg` at each of the three gains. -/
theorem piddWregWritesAGain : Obligations.PiddWregWritesAGain := by
  refine ⟨decodesAt_of_selectOp fun _ _ _ _ => rfl, fun _ _ _ => refusesIllegal_all _,
    fun s i c v port count held => ?_⟩
  have write {idx : Byte} {reg : PiddReg} (named : piddReg idx = some reg) (writable : piddClass reg = .rw) :=
    exec_piddWreg port count named writable v
  simp only [piddAt_of_getElem? held, ofData_eq] at write
  exact ⟨write (reg := .kp) rfl rfl, write (reg := .ki) rfl rfl, write (reg := .kd) rfl rfl⟩

/-- Settles O46: the index is in the register map's list, so it names a register, and the RREG answers that one. -/
theorem piddRregAnswersTheNamedRegister : Obligations.PiddRregAnswersTheNamedRegister := by
  refine ⟨decodesAt_of_selectOp fun _ _ _ _ => rfl, fun _ _ => refusesIllegal_all _,
    fun s i idx c v port count held listed => ?_⟩
  rw [← piddReg_read, Option.map_eq_some_iff] at listed
  obtain ⟨reg, named, rfl⟩ := listed
  rw [exec_piddRreg port count named, piddAt_of_getElem? held, ofData_eq]

/-- Settles O47: `exec_piddCalc`; it takes the six primitives from number `draws` on. -/
theorem piddCalcIsTheDifferenceForm : Obligations.PiddCalcIsTheDifferenceForm := by
  refine ⟨decodesAt_of_selectOp fun _ _ _ _ => rfl, fun _ _ _ => refusesIllegal_all _,
    fun s i c e port count held => ⟨piddOutput s.draws e c, fun p => s.draws + p, s.draws + 6, rfl, ?_⟩⟩
  rw [exec_piddCalc port count, piddAt_of_getElem? held, ofData_eq]

/-- Settles O48: `exec_pidtWreg` at each of the three gains and at SAT. -/
theorem pidtWregWritesAGainOrSat : Obligations.PidtWregWritesAGainOrSat := by
  refine ⟨decodesAt_of_selectOp fun _ _ _ _ => rfl, fun _ _ _ => refusesIllegal_all _,
    fun s i c v port count held => ?_⟩
  have write {idx : Byte} {reg : PidtReg} (named : pidtReg idx = some reg) (writable : pidtClass reg = .rw) :=
    exec_pidtWreg port count named writable v
  simp only [pidtAt_of_getElem? held, ofData_eq] at write
  exact ⟨write (reg := .kp) rfl rfl, write (reg := .ki) rfl rfl, write (reg := .kd) rfl rfl,
    write (reg := .sat) rfl rfl⟩

/-- Settles O49: the index is in the register map's list, so it names a register, and the RREG answers that one. -/
theorem pidtRregAnswersTheNamedRegister : Obligations.PidtRregAnswersTheNamedRegister := by
  refine ⟨decodesAt_of_selectOp fun _ _ _ _ => rfl, fun _ _ => refusesIllegal_all _,
    fun s i idx c v port count held listed => ?_⟩
  rw [← pidtReg_read, Option.map_eq_some_iff] at listed
  obtain ⟨reg, named, rfl⟩ := listed
  rw [exec_pidtRreg port count named, pidtAt_of_getElem? held, ofData_eq]

/-- Settles O50: `exec_pidtCalc`; it takes two primitives for the integral from number `draws` on, and then seven for
the derivative and the output. -/
theorem pidtCalcIsTheGainForm : Obligations.PidtCalcIsTheGainForm := by
  refine ⟨decodesAt_of_selectOp fun _ _ _ _ => rfl, fun _ _ _ _ => refusesIllegal_all _,
    fun s i c e dt port count held =>
      ⟨pidtIntegral s.draws e dt c, fdiv (s.draws + 3) (fsub (s.draws + 2) e c.eprev) dt,
        pidtOutput (s.draws + 2) e dt (pidtIntegral s.draws e dt c) c, fun p => s.draws + p, s.draws + 9,
        rfl, rfl, rfl, ?_⟩⟩
  rw [exec_pidtCalc port count, pidtAt_of_getElem? held, ofData_eq]

end Sys2Proof.Proofs
end

section
/-! SUPPORT. The SYS commands (44_system.md R130 to R133): the whole effect of each where it is legal, and the
statements about them. -/
namespace Sys2Proof.Proofs
open Sys2Proof Sys2Proof.Machine

/-! ### The commands on a state that makes them legal -/

/-- NOP has no port check: with INST and IDX 0 it is legal on either port (44_system.md R130). -/
theorem exec_sysNop (s : State) : exec (.sysNop 0 0) s = .next (s.respond (Resp.ofData 0 0)) :=
  conclude_legal (s := s) (cs := [instCheck 1 0, idxCheck 0]) rfl

/-- The parameter table in the order of its indices, SPEC_REV 7 last (44_system.md R133). -/
theorem paramValue_eq (m : Params) (k : Byte) :
    paramValue m k =
      [m.nDb, m.nBiq, m.nCf1, m.nCf2, m.nPidd, m.nPidt, m.biqMaxSec, m.dbSlotWords, 7][k.toNat]? := by
  unfold paramValue
  rcases k.toNat with _ | _ | _ | _ | _ | _ | _ | _ | _ | n <;> rfl

section
variable {s : State} (port : s.port = .r)
include port

theorem exec_sysStatR : exec (.sysStatR 0 0) s = .next { s with rResp := Resp.ofData s.status 0 } :=
  conclude_respond_on_r (opChecks_legal port Nat.one_pos) port _

theorem exec_sysStatC : exec (.sysStatC 0 0) s = .next { s with status := 0, rResp := Resp.ofData 0 0 } :=
  conclude_respond_on_r (t := { s with status := 0 }) (opChecks_legal port Nat.one_pos) port _

theorem exec_sysParamR {k : Byte} {v : Nat} (listed : paramValue s.params k = some v) :
    exec (.sysParamR 0 k) s = .next { s with rResp := Resp.ofData (BitVec.ofNat 32 v) 0 } := by
  have pass : firstFailing
      [s.portCheck .r, instCheck 1 0, ((paramValue s.params k).isNone, .badIdx)] = none := by
    simp [State.portCheck, instCheck, port, listed]
  have run : exec (.sysParamR 0 k) s = _ := conclude_respond_on_r pass port _
  rw [run, listed, Option.getD_some]

end

/-! ### The statements -/

/-- Settles O21: `exec_sysNop`, with the response on the port in service. -/
theorem sysNopChangesNothing : Obligations.SysNopChangesNothing := by
  refine ⟨decodesAt_of_selectOp fun _ _ _ _ => rfl, fun _ _ => refusesIllegal_all _,
    fun s => ⟨fun port => ?onR, fun port => ?onW⟩⟩
  case onR => rw [exec_sysNop, respond_on_r port, ofData_eq]
  case onW => rw [exec_sysNop, respond_on_w port, ofData_eq]

/-- Settles O22: `exec_sysStatR`. -/
theorem sysStatRAnswersStatus : Obligations.SysStatRAnswersStatus := by
  refine ⟨decodesAt_of_selectOp fun _ _ _ _ => rfl, fun _ _ => refusesIllegal_all _, fun s port => ?_⟩
  rw [exec_sysStatR port, ofData_eq]

/-- Settles O23: `exec_sysStatC`. -/
theorem sysStatCClearsStatus : Obligations.SysStatCClearsStatus := by
  refine ⟨decodesAt_of_selectOp fun _ _ _ _ => rfl, fun _ _ => refusesIllegal_all _, fun s port => ?_⟩
  rw [exec_sysStatC port, ofData_eq]

/-- Settles O24: the statement's list is the parameter table by `paramValue_eq`, and `exec_sysParamR` answers the
entry that the index names. -/
theorem sysParamRAnswersTheTable : Obligations.SysParamRAnswersTheTable := by
  refine ⟨decodesAt_of_selectOp fun _ _ _ _ => rfl, fun _ _ => refusesIllegal_all _,
    fun s k v port listed => ?_⟩
  rw [← paramValue_eq] at listed
  rw [exec_sysParamR port listed, ofData_eq]

end Sys2Proof.Proofs
end

section
/-! SUPPORT. Exceptions (60_exceptions.md R138 to R141): what an illegal command records in STATUS, what a legal one
answers and leaves of STATUS, and the statements about both. -/
namespace Sys2Proof.Proofs
open Sys2Proof Sys2Proof.Machine

/-! ### Illegal commands -/

/-- An illegal command has the effect of IllegalCommand and no other (60_exceptions.md R140). -/
theorem step_of_illegal {s : State} {p : Port} {q : Request} {rest : List Event} {c : Cause}
    (h : s.inputs = .command p q :: rest) (illegal : illegalCause s.params p q = some c) :
    step s = .next (afterIllegal { s with inputs := rest, port := p } c) := by
  rw [step_eq_afterEvent h]
  simp only [afterEvent, illegal]

/-- The response of IllegalCommand stands on the port in service. -/
theorem respOf_afterIllegal (s : State) (c : Cause) : (afterIllegal s c).respOf s.port = illegalResp c := by
  unfold State.respOf afterIllegal
  cases s.port <;> rfl

/-- The record of a cause on the R port changes that port's sticky bit and cause field only (60_exceptions.md R141,
R142). -/
theorem recordCause_r_other (c : Cause) (st : Word) {k : Nat} (sticky : k ≠ 0) (field : ¬ (8 ≤ k ∧ k < 12)) :
    (recordCause .r c st).getLsbD k = st.getLsbD k := by
  cases h : statusIll .r st with
  | true => rw [recordCause_kept h]
  | false => rw [recordCause_getLsbD_r c st h, if_neg sticky, if_neg field]

/-- A cause recorded on the R port: RCAUSE and ILLR are written where ILLR is 0 (10_state.md R33, 60_exceptions.md
R141). -/
theorem recordCause_r_spec (c : Cause) (st : Word) :
    if st.getLsbD 0 then recordCause .r c st = st
    else (recordCause .r c st).getLsbD 0 = true ∧ (recordCause .r c st).extractLsb' 8 4 = causeCode c ∧
      ∀ k, k ≠ 0 → ¬ (8 ≤ k ∧ k < 12) → (recordCause .r c st).getLsbD k = st.getLsbD k := by
  split_ifs with sticky
  · exact recordCause_kept sticky
  · have clear : statusIll .r st = false := Bool.eq_false_of_not_eq_true sticky
    exact ⟨statusIll_recordCause_same .r c st clear, statusCause_recordCause_same .r c st clear,
      fun _ => recordCause_r_other c st⟩

/-- A cause recorded on the W port: WCAUSE and ILLW are written where ILLW is 0 (10_state.md R33, 60_exceptions.md
R141). -/
theorem recordCause_w_spec (c : Cause) (st : Word) :
    if st.getLsbD 1 then recordCause .w c st = st
    else (recordCause .w c st).getLsbD 1 = true ∧ (recordCause .w c st).extractLsb' 12 4 = causeCode c ∧
      ∀ k, k ≠ 1 → ¬ (12 ≤ k ∧ k < 16) → (recordCause .w c st).getLsbD k = st.getLsbD k := by
  split_ifs with sticky
  · exact recordCause_kept sticky
  · have clear : statusIll .w st = false := Bool.eq_false_of_not_eq_true sticky
    exact ⟨statusIll_recordCause_same .w c st clear, statusCause_recordCause_same .w c st clear,
      fun _ => recordCause_w_other c st⟩

/-! ### Legal commands -/

/-- A response that reports no illegal command (30_encoding.md R63, 60_exceptions.md R138). -/
structure Quiet (r : Resp) : Prop where
  ill : r.ill = false
  cause : r.cause = 0

/-- FLAGS of a legal command, whatever NEW and SLOT are (30_encoding.md R63). -/
theorem quiet_of_flags {r : Resp} {fresh slot : Bool} (h : r.flags = flagsWord false 0 fresh slot) : Quiet r := by
  have fields : ∀ fresh slot : Bool, (flagsWord false 0 fresh slot).getLsbD 0 = false ∧
      (flagsWord false 0 fresh slot).extractLsb' 4 4 = 0#4 := by decide
  obtain ⟨ill, cause⟩ := fields fresh slot
  exact ⟨by rw [Resp.ill, h, ill], by rw [Resp.cause, h]; exact cause⟩

theorem quiet_ofData (d0 d1 : Word) : Quiet (Resp.ofData d0 d1) := quiet_of_flags rfl

/-- The command is SYS.STAT_C, the one legal command that writes STATUS (44_system.md R132). -/
def clearsStatus : Instr → Bool
  | .sysStatC .. => true
  | _ => false

theorem clearsStatus_iff (i : Instr) :
    clearsStatus i = true ↔ famOf (encode i).cmd = 0 ∧ opOf (encode i).cmd = 2 := by
  cases i <;> simp [clearsStatus, encode, Laws.famOf_cmdWord, Laws.opOf_cmdWord]

/-- What a legal command reports: no cause on its port, and STATUS as it was, or 0 after SYS.STAT_C (60_exceptions.md
R141). -/
structure LegalOutcome (i : Instr) (s t : State) : Prop where
  quiet : Quiet (t.respOf s.port)
  status : t.status = if clearsStatus i then 0 else s.status

/-- A quiet answer to the command in service, whatever else its effect has replaced before. -/
theorem LegalOutcome.respond {i : Instr} {s u : State} {r : Resp} (quiet : Quiet r)
    (port : u.port = s.port := by exact rfl)
    (status : u.status = if clearsStatus i then 0 else s.status := by exact rfl) : LegalOutcome i s (u.respond r) where
  quiet := by rwa [← port, respOf_respond]
  status := status

theorem LegalOutcome.answer {i : Instr} {s u : State} {d0 d1 : Word} (port : u.port = s.port := by exact rfl)
    (status : u.status = if clearsStatus i then 0 else s.status := by exact rfl) :
    LegalOutcome i s (u.respond (Resp.ofData d0 d1)) :=
  .respond (quiet_ofData d0 d1) port status

section
variable {i : Instr} {s t : State}

/-- A legal command passes the checks that its meaning makes, so what its effect reports it reports. -/
theorem LegalOutcome.of_conclude {u : State} {cs : List (Bool × Cause)}
    (legal : illegalCause s.params s.port (encode i) = none) (h : s.conclude cs u = .next t)
    (checks : firstFailing cs = illegalCause s.params s.port (encode i)) (effect : LegalOutcome i s u) :
    LegalOutcome i s t := by
  rw [conclude_legal (checks.trans legal)] at h
  cases h
  exact effect

/-- Every legal command answers with no cause, and none but SYS.STAT_C writes STATUS: its checks are those of
60_exceptions.md R139, by the kind of the command, and its effect ends in a quiet answer. -/
theorem legalOutcome_of_exec (legal : illegalCause s.params s.port (encode i) = none) (h : exec i s = .next t) :
    LegalOutcome i s t := by
  cases i with
  | sysNop inst idx =>
    refine .of_conclude legal h ?_ .answer
    rw [illegalCause_of_fields (Laws.EncodedFields.sysNop inst idx) (by decide)]
    cases s.port <;> simp [fieldChecks, allowedOn, indexSet, idxCheck, instCheck, familyCount, ← BitVec.toNat_inj]
  | sysParamR inst idx =>
    refine .of_conclude legal h ?_ .answer
    rw [illegalCause_of_listedOnlyOn (port := .r) s (Laws.EncodedFields.sysParamR inst idx) (by decide) rfl]
    simp [State.portCheck, instCheck, familyCount, indexSet, ← paramValue_isSome s.params]
  | dbRead =>
    exact .of_conclude legal h (opChecks_eq_illegalCause s (Laws.hasFields_cmdWord ..) (by decide) (by decide) rfl)
      (.respond (quiet_of_flags rfl))
  | sysStatR | sysStatC | dbInit | dbRreg | dbWrite | biqInit | biqSample | cf1Init | cf1SampleAcc | cf1SampleGyr
  | cf2Init | cf2SampleAcc | cf2SampleGyr | piddInit | piddCalc | pidtInit | pidtCalc =>
    exact .of_conclude legal h
      (opChecks_eq_illegalCause s (Laws.hasFields_cmdWord ..) (by decide) (by decide) rfl) .answer
  | biqRreg _ idx =>
    exact .of_conclude legal h
      (rregChecks_eq_illegalCause s (Laws.hasFields_cmdWord ..) rfl (by decide) (biq_mapFits _ idx) rfl) .answer
  | cf1Rreg _ idx =>
    exact .of_conclude legal h
      (rregChecks_eq_illegalCause s (Laws.hasFields_cmdWord ..) rfl (by decide) (cf1_mapFits _ idx) rfl) .answer
  | cf2Rreg _ idx =>
    exact .of_conclude legal h
      (rregChecks_eq_illegalCause s (Laws.hasFields_cmdWord ..) rfl (by decide) (cf2_mapFits _ idx) rfl) .answer
  | piddRreg _ idx =>
    exact .of_conclude legal h
      (rregChecks_eq_illegalCause s (Laws.hasFields_cmdWord ..) rfl (by decide) (pidd_mapFits _ idx) rfl) .answer
  | pidtRreg _ idx =>
    exact .of_conclude legal h
      (rregChecks_eq_illegalCause s (Laws.hasFields_cmdWord ..) rfl (by decide) (pidt_mapFits _ idx) rfl) .answer
  | biqWreg inst idx op0 =>
    refine .of_conclude legal h ?_ .answer
    have fields := Laws.EncodedFields.biqWreg inst idx op0
    refine wregChecks_eq_illegalCause s fields rfl (by decide) (biq_mapFits _ idx) ?_ rfl
    simp [biqReg_eq_nsec, encode]
  | cf1Wreg _ idx =>
    exact .of_conclude legal h (wregChecks_eq_illegalCause_of_ne_biq s (Laws.EncodedFields.cf1Wreg ..) rfl (by decide)
      (cf1_mapFits _ idx) rfl) .answer
  | cf2Wreg _ idx =>
    exact .of_conclude legal h (wregChecks_eq_illegalCause_of_ne_biq s (Laws.EncodedFields.cf2Wreg ..) rfl (by decide)
      (cf2_mapFits _ idx) rfl) .answer
  | piddWreg _ idx =>
    exact .of_conclude legal h (wregChecks_eq_illegalCause_of_ne_biq s (Laws.EncodedFields.piddWreg ..) rfl (by decide)
      (pidd_mapFits _ idx) rfl) .answer
  | pidtWreg _ idx =>
    exact .of_conclude legal h (wregChecks_eq_illegalCause_of_ne_biq s (Laws.EncodedFields.pidtWreg ..) rfl (by decide)
      (pidt_mapFits _ idx) rfl) .answer

end

/-- The step of a legal command runs the command that its word decodes to (30_encoding.md R71, R74). -/
theorem step_of_legal {s : State} {p : Port} {q : Request} {rest : List Event} (h : s.inputs = .command p q :: rest)
    (legal : illegalCause s.params p q = none) :
    ∃ i t, decode q = .ok i ∧ step s = .next t ∧ LegalOutcome i { s with inputs := rest, port := p } t := by
  cases decodes : decode q with
  | error c => exact absurd ((illegalCause_of_decode_error decodes _ p).symm.trans legal) (Option.some_ne_none c)
  | ok i =>
    obtain ⟨t, run⟩ := exec_next i { s with inputs := rest, port := p }
    refine ⟨i, t, rfl, (stepRunsTheDecodedCommand s p q rest i h decodes).trans run, ?_⟩
    exact legalOutcome_of_exec ((illegalCause_encode decodes ..).trans legal) run

/-- A word that decodes is SYS.STAT_C by its FAM and OP (30_encoding.md R65). -/
theorem clearsStatus_of_decode {q : Request} {i : Instr} (decodes : decode q = .ok i) :
    clearsStatus i = true ↔ famOf q.cmd = 0 ∧ opOf q.cmd = 2 := by
  obtain ⟨-, ⟨fam, op, -⟩, -⟩ := encode_of_decode decodes
  rw [clearsStatus_iff, fam, op]

/-! ### The statements -/

/-- Settles O6: `step_of_illegal`. -/
theorem illegalCommandsByTheCheckOrder : Obligations.IllegalCommandsByTheCheckOrder :=
  fun _ _ _ _ _ => step_of_illegal

/-- Settles O7: `step_of_legal`, whose outcome is quiet on the command's port. -/
theorem legalCommandsReportNoCause : Obligations.LegalCommandsReportNoCause := by
  intro s p q rest h legal
  obtain ⟨i, t, decodes, run, outcome⟩ := step_of_legal h legal
  exact ⟨i, t, decodes, run, outcome.quiet.ill, outcome.quiet.cause⟩

/-- Settles O8: a legal command by `step_of_legal`, an illegal one by `step_of_illegal` and what `recordCause` does on
its port; the statement's numbers of the causes are those of `causeCode`. -/
theorem statusRecordsTheFirstCause : Obligations.StatusRecordsTheFirstCause := by
  unfold Obligations.StatusRecordsTheFirstCause
  intro code s p q rest h
  have code_eq : ∀ c, code c = causeCode c := fun c => by cases c <;> rfl
  cases legality : illegalCause s.params p q with
  | none =>
    obtain ⟨i, t, decodes, run, outcome⟩ := step_of_legal h legality
    refine ⟨t, run, ?_⟩
    simpa only [clearsStatus_of_decode decodes, apply_ite (t.status = ·)] using outcome.status
  | some c =>
    refine ⟨_, step_of_illegal h legality, ?_⟩
    simp only [code_eq]
    refine ⟨respOf_afterIllegal _ c, ?_⟩
    cases p with
    | r => exact recordCause_r_spec c s.status
    | w => exact recordCause_w_spec c s.status

end Sys2Proof.Proofs
end

section
/-! SUPPORT. Hazards (70_reset_and_hazards.md R169): how a NaN in a feedback word goes through each family's arithmetic
and through the biquad cascade, and the statement about it. -/
namespace Sys2Proof.Proofs
open Sys2Proof Sys2Proof.Machine

/-! ### NaNs through the primitives (00_scope.md R11) -/

section
variable {a b : Word} (k : Nat) (h : isNaN a = true ∨ isNaN b = true)
include h

theorem isNaN_fadd : isNaN (fadd k a b) = true :=
  let ⟨sum, _, _, _⟩ := isNaN_of_nan_operand k h; sum

theorem isNaN_fsub : isNaN (fsub k a b) = true :=
  let ⟨_, difference, _, _⟩ := isNaN_of_nan_operand k h; difference

theorem isNaN_fmul : isNaN (fmul k a b) = true :=
  let ⟨_, _, product, _⟩ := isNaN_of_nan_operand k h; product

theorem isNaN_fdiv : isNaN (fdiv k a b) = true :=
  let ⟨_, _, _, quotient⟩ := isNaN_of_nan_operand k h; quotient

end

/-! ### NaNs through the outputs of the filters and the controllers -/

/-- YPREV is in the numerator of the accelerometer branch (42_complementary.md R103). -/
theorem isNaN_cf1Acc {c : Cf1Inst} (h : isNaN c.yprev = true) (k : Nat) (x : Word) : isNaN (cf1Acc k x c) = true :=
  isNaN_fdiv _ (.inl (isNaN_fsub _ (.inr (isNaN_fmul _ (.inl h)))))

/-- YPREV is in the numerator of the gyro branch (42_complementary.md R104). -/
theorem isNaN_cf1Gyr {c : Cf1Inst} (h : isNaN c.yprev = true) (k : Nat) (x : Word) : isNaN (cf1Gyr k x c) = true :=
  isNaN_fdiv _ (.inl (isNaN_fsub _ (.inr (isNaN_fmul _ (.inl h)))))

/-- Both feedback terms are subtracted, whatever the coefficients are (42_complementary.md R105). -/
theorem isNaN_cf2Output {c : Cf2Inst} (h : isNaN c.y1 = true ∨ isNaN c.y2 = true) (k : Nat) (g : Cf2Coeffs)
    (x : Word) : isNaN (cf2Output k g x c) = true := by
  rcases h with y1 | y2
  · have product : isNaN (fmul (k + 5) g.d1 c.y1) = true := isNaN_fmul _ (.inr y1)
    exact isNaN_fsub _ (.inl (isNaN_fsub _ (.inr product)))
  · have product : isNaN (fmul (k + 7) g.d2 c.y2) = true := isNaN_fmul _ (.inr y2)
    exact isNaN_fsub _ (.inr product)

/-- UPREV is the first summand of the output (43_pid.md R118). -/
theorem isNaN_piddOutput {c : PiddInst} (h : isNaN c.uprev = true) (k : Nat) (e : Word) :
    isNaN (piddOutput k e c) = true :=
  isNaN_fadd _ (.inl (isNaN_fadd _ (.inl (isNaN_fadd _ (.inl h)))))

/-- The clamp keeps the NaN that accumulating makes of one (43_pid.md R122, R123). -/
theorem isNaN_pidtIntegral {c : PidtInst} (h : isNaN c.integ = true) (k : Nat) (e dt : Word) :
    isNaN (pidtIntegral k e dt c) = true := by
  have sum : isNaN (fadd (k + 1) c.integ (fmul k e dt)) = true := isNaN_fadd _ (.inl h)
  rw [pidtIntegral, clamp_nan (.inl sum), sum]

/-- The output adds `Ki*integral` (43_pid.md R122). -/
theorem isNaN_pidtOutput {i : Word} (h : isNaN i = true) (k : Nat) (e dt : Word) (c : PidtInst) :
    isNaN (pidtOutput k e dt i c) = true := by
  have product : isNaN (fmul (k + 3) c.ki i) = true := isNaN_fmul _ (.inr h)
  exact isNaN_fadd _ (.inl (isNaN_fadd _ (.inr product)))

/-! ### NaNs through the biquad cascade (41_biquad.md R93) -/

section
variable {c : Section} {v : Word} (k : Nat)

/-- A NaN in a section's input or in S0 is a NaN in its output. -/
theorem isNaN_sectionStep_output (h : isNaN v = true ∨ isNaN c.s0 = true) : isNaN (sectionStep k v c).2 = true :=
  isNaN_fadd _ (h.imp_left fun input => isNaN_fmul _ (.inr input))

/-- Both new state words subtract a product with the output, so a NaN in S0 stays there and goes to S1. -/
theorem isNaN_sectionStep_of_s0 (h : isNaN c.s0 = true) :
    isNaN (sectionStep k v c).1.s0 = true ∧ isNaN (sectionStep k v c).1.s1 = true := by
  have output := isNaN_sectionStep_output (v := v) k (.inr h)
  exact ⟨isNaN_fsub _ (.inr (isNaN_fmul _ (.inr output))), isNaN_fsub _ (.inr (isNaN_fmul _ (.inr output)))⟩

/-- The old S1 is a summand of the new S0, and of no other result of the step (log 18). -/
theorem isNaN_sectionStep_of_s1 (h : isNaN c.s1 = true) : isNaN (sectionStep k v c).1.s0 = true :=
  isNaN_fsub _ (.inl (isNaN_fadd _ (.inr h)))

/-- A NaN input goes through any number of sections. -/
theorem isNaN_cascade_of_input (h : isNaN v = true) (n : Nat) (secs : List Section) :
    isNaN (cascade k v n secs).2 = true := by
  induction secs generalizing k v n with
  | nil => cases n <;> exact h
  | cons c secs ih =>
    cases n with
    | zero => exact h
    | succ n => exact ih _ (isNaN_sectionStep_output k (.inl h)) n

/-- A NaN in S0 of an active section comes out of that section, and then goes through the rest. -/
theorem isNaN_cascade_of_s0 {secs : List Section} {n j : Nat} (held : secs[j]? = some c) (active : j < n)
    (h : isNaN c.s0 = true) : isNaN (cascade k v n secs).2 = true := by
  induction secs generalizing k v n j with
  | nil => cases held
  | cons head secs ih =>
    obtain ⟨n, rfl⟩ := Nat.exists_eq_add_of_lt active
    cases j with
    | zero =>
      cases held
      exact isNaN_cascade_of_input _ (isNaN_sectionStep_output k (.inr h)) _ secs
    | succ j => exact ih _ held (by omega)

end

/-! ### Samples on an instance with a NaN -/

/-- What a replaced element shows where there was one before. -/
theorem getElem?_map_set_self {α β : Type} {l : List α} {i : Nat} {c : α} (held : l[i]? = some c) (a : α) (f : α → β) :
    (l.set i a)[i]?.map f = some (f a) := by
  rw [List.getElem?_set_self', held]
  rfl

section
variable {s : State} {n : Byte} {b : BiqInst} {j : Nat} {c : Section} (port : s.port = .r)
  (count : n.toNat < s.params.nBiq) (held : s.biq[n.toNat]? = some b) (active : j < b.nsec.toNat)
  (sec : b.secs[j]? = some c)
include port count held active sec

/-- With a NaN in S0 of an active section the answer is a NaN, and both state words of the section become one. -/
theorem biqSample_of_nan_s0 (nan : isNaN c.s0 = true) (x : Word) :
    ∃ t, exec (.biqSample n 0 x) s = .next t ∧ isNaN t.rResp.d0 = true ∧
      t.biq[n.toNat]?.map (fun b' => b'.secs[j]?.map fun c' => isNaN c'.s0 && isNaN c'.s1) = some (some true) := by
  refine ⟨_, exec_biqSample port count held x, isNaN_fmul _ (.inl (isNaN_cascade_of_s0 _ sec active nan)), ?_⟩
  obtain ⟨s0, s1⟩ := isNaN_sectionStep_of_s0 (v := (cascade s.draws x j b.secs).2) (s.draws + 9 * j) nan
  simp only [getElem?_map_set_self held, cascade_getElem?_of_lt sec active, Option.map_some, s0, s1, Bool.and_self]

/-- With a NaN in S1 of an active section that section's S0 becomes one, so the next sample is one on a NaN in S0. -/
theorem biqSample_of_nan_s1 (nan : isNaN c.s1 = true) (x : Word) :
    ∃ t, exec (.biqSample n 0 x) s = .next t ∧
      t.biq[n.toNat]?.map (fun b' => b'.secs[j]?.map fun c' => isNaN c'.s0) = some (some true) ∧
      ∀ x', ∃ t', exec (.biqSample n 0 x') t = .next t' ∧ isNaN t'.rResp.d0 = true ∧
        t'.biq[n.toNat]?.map (fun b' => b'.secs[j]?.map fun c' => isNaN c'.s0 && isNaN c'.s1) = some (some true) := by
  have stepped := cascade_getElem?_of_lt sec active s.draws x
  have s0 := isNaN_sectionStep_of_s1 (v := (cascade s.draws x j b.secs).2) (s.draws + 9 * j) nan
  obtain ⟨bound, -⟩ := List.getElem?_eq_some_iff.1 held
  refine ⟨_, exec_biqSample port count held x, ?_,
    biqSample_of_nan_s0 port count (List.getElem?_set_self bound) active stepped s0⟩
  simp only [getElem?_map_set_self held, stepped, Option.map_some, s0]

end

/-- Settles O53: in each family the output and the new feedback word take the old feedback word through operands of the
primitives, and a primitive hands a NaN on. -/
theorem naNsPersistInFeedbackWords : Obligations.NaNsPersistInFeedbackWords := by
  intro s i x dt port
  refine ⟨?cf1, ?cf2, ?pidd, ?pidt, ?biqS0, ?biqS1⟩
  case cf1 =>
    intro c count held nan
    rw [← cf1At_of_getElem? held] at nan
    have acc := isNaN_cf1Acc nan s.draws x
    have gyr := isNaN_cf1Gyr nan s.draws x
    exact ⟨_, _, exec_cf1SampleAcc port count x, exec_cf1SampleGyr port count x,
      acc, (getElem?_map_set_self held ..).trans (congrArg some acc),
      gyr, (getElem?_map_set_self held ..).trans (congrArg some gyr)⟩
  case cf2 =>
    intro c count held nan
    rw [← cf2At_of_getElem? held] at nan
    have output (br : Branch) := isNaN_cf2Output nan s.draws (Config.cf2Coeffs br (s.cf2At i).tau) x
    exact ⟨_, _, cf2Sample_legal port count .acc x, cf2Sample_legal port count .gyr x,
      output .acc, (getElem?_map_set_self held ..).trans (congrArg some (output .acc)),
      output .gyr, (getElem?_map_set_self held ..).trans (congrArg some (output .gyr))⟩
  case pidd =>
    intro c count held nan
    rw [← piddAt_of_getElem? held] at nan
    have output := isNaN_piddOutput nan s.draws x
    exact ⟨_, exec_piddCalc port count x, output, (getElem?_map_set_self held ..).trans (congrArg some output)⟩
  case pidt =>
    intro c count held nan
    rw [← pidtAt_of_getElem? held] at nan
    have integral := isNaN_pidtIntegral nan s.draws x dt
    exact ⟨_, exec_pidtCalc port count x dt, isNaN_pidtOutput integral ..,
      (getElem?_map_set_self held ..).trans (congrArg some integral)⟩
  case biqS0 => exact fun b j c count held _ active sec nan => biqSample_of_nan_s0 port count held active sec nan x
  case biqS1 => exact fun b j c count held _ active sec nan => biqSample_of_nan_s1 port count held active sec nan x

end Sys2Proof.Proofs
end

section
/-! SUPPORT. Reset (70_reset_and_hazards.md R155 to R157): a reset of a block that is as a reset leaves it, and the
statements about resets. -/
namespace Sys2Proof.Proofs
open Sys2Proof Sys2Proof.Machine

/-- A reset that discards no command finds nothing to change right after a reset. -/
theorem blockReset_resetWith (m : Params) : (State.resetWith m).blockReset false false = State.resetWith m := rfl

/-- Settles O9: the step is the block reset, which has one rule for each family's registers. -/
theorem resetEventZeroesEveryRegister : Obligations.ResetEventZeroesEveryRegister :=
  fun _ _ _ _ h => ⟨_, step_eq_afterEvent h, State.blockReset_params .., State.blockReset_inputs ..,
    State.blockReset_db .., State.blockReset_biq .., State.blockReset_cf1 .., State.blockReset_cf2 ..,
    State.blockReset_pidd .., State.blockReset_pidt .., State.blockReset_status ..⟩

/-- Settles O10: the registers are those of `State.resetWith` for the parameters written out, and `blockReset_resetWith`
is the reset from there. -/
theorem stateResetIsTheAllZeroState : Obligations.StateResetIsTheAllZeroState :=
  ⟨rfl, rfl, rfl, rfl, rfl, rfl, rfl, rfl, rfl, _, step_offer _ _, blockReset_resetWith Config.params⟩

end Sys2Proof.Proofs
end
